-- ==== Sys2Proof/Word.lean ====
section
/-! DEFINITION. The fixed-width unsigned values of the block (spec 00_scope.md R7): every value has a stated width,
bit 0 is the least significant, nothing is signed. -/

namespace Sys2Proof

/-- A byte, 8 bits (R7). -/
abbrev Byte := BitVec 8

/-- A checksum value, 16 bits (40_checksum.md R107). -/
abbrev Checksum := BitVec 16

/-- A message-type identifier, 24 bits (10_state.md R34). -/
abbrev MsgId := BitVec 24

/-- A command word CMD32, 32 bits (30_encoding.md R70). It is one value, with no byte order (20_memory.md R55). -/
abbrev CmdWord := BitVec 32

end Sys2Proof
end

