-- ==== Sys2Proof/Syntax.lean ====
section
/-! DEFINITION. The commands of the block, one constructor per row of spec/opcode_table.json (30_encoding.md R72), and
the lines of the spec's own assembler syntax (R75). -/

namespace Sys2Proof

/-- The eight commands of 30_encoding.md R72, each operand at the width R71 slices it. -/
inductive Instr where
  /-- RESET, op 0x0 (41_parser.md R122). -/
  | reset
  /-- FEED b, op 0x1 (41_parser.md R120). -/
  | feed (b : Byte)
  /-- CRC_SEED, op 0x2 (40_checksum.md R104). -/
  | crcSeed
  /-- CRC_LOAD v, op 0x3 (40_checksum.md R105). -/
  | crcLoad (v : Checksum)
  /-- CRC_BYTE b, op 0x4 (40_checksum.md R106). -/
  | crcByte (b : Byte)
  /-- CRC_SALT id, op 0x5 (42_registry.md R174). -/
  | crcSalt (id : MsgId)
  /-- LOOKUP id, op 0x6 (42_registry.md R173). -/
  | lookup (id : MsgId)
  /-- SEND_HB seq, sysid, compid, op 0x7 (43_encoder.md R190). -/
  | sendHb (seq sysid compid : Byte)
deriving DecidableEq, Repr

/-- A line of the assembler syntax (30_encoding.md R75): a mnemonic or a pseudo-instruction with the numbers written as
its operands. The numbers are as large as they are written; WellFormed.lean says which lines are no assembly error. -/
inductive AsmLine where
  | reset
  | feed (b : Nat)
  | crcSeed
  | crcLoad (v : Nat)
  | crcByte (b : Nat)
  | crcSalt (id : Nat)
  | lookup (id : Nat)
  | sendHb (seq sysid compid : Nat)
  /-- FEEDS b0, ..., bk: one FEED per byte, in order. -/
  | feeds (bs : List Nat)
  /-- CRC_BUF b0, ..., bk: one CRC_BYTE per byte, in order. -/
  | crcBuf (bs : List Nat)
deriving DecidableEq, Repr

end Sys2Proof
end

