-- ==== Sys2Proof/Decode.lean ====
section
/-! DEFINITION. The decoder of 30_encoding.md R74, total on every 32-bit word and rejecting by name, and the encoder
written from the same table (R70 to R72). -/

namespace Sys2Proof

/-- Bits 31:28, the operation (R70). -/
def opField (w : CmdWord) : BitVec 4 := w.extractLsb' 28 4

/-- Bits 27:24, reserved, must be 0 (R70). -/
def rsvField (w : CmdWord) : BitVec 4 := w.extractLsb' 24 4

/-- Bits 7:0: the byte b of FEED and CRC_BYTE, compid of SEND_HB (R71). -/
def byte0 (w : CmdWord) : Byte := w.extractLsb' 0 8

/-- Bits 15:8: sysid of SEND_HB (R71). -/
def byte1 (w : CmdWord) : Byte := w.extractLsb' 8 8

/-- Bits 23:16: seq of SEND_HB, and the bits CRC_LOAD leaves unused (R71, R72). -/
def byte2 (w : CmdWord) : Byte := w.extractLsb' 16 8

/-- Bits 15:0: the checksum value v of CRC_LOAD (R71). -/
def checksumOperand (w : CmdWord) : Checksum := w.extractLsb' 0 16

/-- Bits 23:0: the identifier of CRC_SALT and LOOKUP, and the whole operand field (R70, R71). -/
def idOperand (w : CmdWord) : MsgId := w.extractLsb' 0 24

/-- Bits 23:8: the bits FEED and CRC_BYTE leave unused (R72). -/
def aboveByte (w : CmdWord) : BitVec 16 := w.extractLsb' 8 16

/-- Why a word is illegal (30_encoding.md R73). -/
inductive Illegal where
  /-- The rsv field, bits 27:24, is not 0. -/
  | reservedField
  /-- The operation is 0x8..0xF. -/
  | reservedOpcode
  /-- An operand bit the operation does not use is not 0. -/
  | reservedOperandBits
deriving DecidableEq, Repr

/-- The command i where the bits it leaves unused are 0 (R73). -/
def ifUnusedZero (unusedZero : Bool) (i : Instr) : Except Illegal Instr :=
  if unusedZero then .ok i else .error .reservedOperandBits

/-- 30_encoding.md R74. -/
def decode (w : CmdWord) : Except Illegal Instr :=
  if rsvField w ≠ 0 then .error .reservedField
  else match opField w with
    | 0x0#4 => ifUnusedZero (idOperand w == 0) .reset
    | 0x1#4 => ifUnusedZero (aboveByte w == 0) (.feed (byte0 w))
    | 0x2#4 => ifUnusedZero (idOperand w == 0) .crcSeed
    | 0x3#4 => ifUnusedZero (byte2 w == 0) (.crcLoad (checksumOperand w))
    | 0x4#4 => ifUnusedZero (aboveByte w == 0) (.crcByte (byte0 w))
    | 0x5#4 => .ok (.crcSalt (idOperand w))
    | 0x6#4 => .ok (.lookup (idOperand w))
    | 0x7#4 => .ok (.sendHb (byte2 w) (byte1 w) (byte0 w))
    | _ => .error .reservedOpcode

/-- The word with an operation and an operand field; its rsv field is 0 (R70). -/
def commandWord (op : BitVec 4) (opnd : BitVec 24) : CmdWord := op ++ (0#4 ++ opnd)

/-- The word of a command (R70 to R72). -/
def encode : Instr → CmdWord
  | .reset => commandWord 0x0 0
  | .feed b => commandWord 0x1 (b.setWidth 24)
  | .crcSeed => commandWord 0x2 0
  | .crcLoad v => commandWord 0x3 (v.setWidth 24)
  | .crcByte b => commandWord 0x4 (b.setWidth 24)
  | .crcSalt id => commandWord 0x5 id
  | .lookup id => commandWord 0x6 id
  | .sendHb seq sysid compid => commandWord 0x7 (seq ++ (sysid ++ compid))

/-- The instruction the decoder reads from a table word: nbits bits of w, the bits above them 0. DEDUCED (log entry 12,
safe): a command word is one 32-bit value (20_memory.md R55), so its bits are numbered as the table numbers them. -/
def decodeTableWord (nbits w : Nat) : Option Instr :=
  if nbits ≤ 32 then (decode (BitVec.ofNat 32 (w % 2 ^ nbits))).toOption else none

end Sys2Proof
end

