-- ==== Sys2Proof/Config.lean ====
section
/-! DEFINITION. The configuration of the block: the parameters of spec 00_scope.md R5 that R6 constrains, as an argument
of the step, and the open values of the source's own deployment as constants without a body. -/

namespace Sys2Proof

/-- The parameters of 00_scope.md R5 with the well-formedness of R6. The bounds of R6 are the fields' types; the last
field is R6's check that HB_MSGID is a key of REGISTRY, so an ill-formed configuration is no value of this type.
DESIGN CHOICE (log entry 1, safe): a state carries its configuration, and no step writes it. -/
structure Config where
  /-- PAYLOAD_CAP, 0..255 (R5, D11). -/
  payloadCap : Byte
  /-- REGISTRY, a finite partial map from identifiers to salts (R5, 42_registry.md R171). DESIGN CHOICE (log entry 3, safe):
  it is listed as pairs, and the first pair with a key counts. -/
  registry : List (MsgId × Byte)
  /-- HB_MSGID (R5, D14). -/
  hbMsgid : MsgId
  /-- HB_PAYLOAD, exactly 9 bytes (R5, D13). -/
  hbPayload : Vector Byte 9
  /-- DZ_BASE, the platform's placement of the block, if any (20_memory.md R51, D25): no rule reads it (log entry 15, safe). -/
  dzBase : Option Nat
  /-- HB_MSGID is in dom(REGISTRY) (R6). -/
  hbRegistered : (registry.lookup hbMsgid).isSome = true
deriving DecidableEq, Repr

/-- A configuration as the host writes it down, before the checks of 00_scope.md R6: plain numbers and lists. -/
structure RawConfig where
  payloadCap : Nat
  registry : List (Nat × Nat)
  hbMsgid : Nat
  hbPayload : List Byte
  dzBase : Option Nat
deriving DecidableEq, Repr

/-- HB_MSGID of the source's deployment: the spec does not give it (91_not_in_source.md N4). -/
opaque Config.freeHbMsgid : MsgId

/-- The salt of the heartbeat in the source's deployment: the spec does not give it (91_not_in_source.md N3). -/
opaque Config.freeHbSalt : Byte

/-- How far, less 1, the key of the second registry entry of the source's deployment lies above HB_MSGID, modulo 2^24: the spec
does not give the key (91_not_in_source.md N3), only that the registry has exactly two entries (42_registry.md R171). -/
opaque Config.freeOtherDistance : Fin 16777215

/-- The key of the second registry entry of the source's deployment: any identifier but HB_MSGID (42_registry.md R171). -/
def Config.freeOtherMsgid : MsgId := freeHbMsgid + BitVec.ofNat 24 (freeOtherDistance.val + 1)

/-- The salt of the second registry entry of the source's deployment: the spec does not give it (91_not_in_source.md N3). -/
opaque Config.freeOtherSalt : Byte

/-- HB_PAYLOAD of the source's deployment: the spec does not give its bytes (91_not_in_source.md N5). -/
opaque Config.freeHbPayload : Vector Byte 9

/-- DZ_BASE of the source's deployment: left to the platform (20_memory.md R51). -/
opaque Config.freeDzBase : Option Nat

/-- The configuration of the source's deployment: PAYLOAD_CAP is 255 (R5) and REGISTRY has exactly two entries, with different
keys, one of them the heartbeat's (42_registry.md R171). Every value the spec leaves open is a constant without a body.
DESIGN CHOICE (log entry 2, safe). -/
def Config.deployed : Config where
  payloadCap := 255
  registry := [(freeHbMsgid, freeHbSalt), (freeOtherMsgid, freeOtherSalt)]
  hbMsgid := freeHbMsgid
  hbPayload := freeHbPayload
  dzBase := freeDzBase
  hbRegistered := by simp [List.lookup]

end Sys2Proof
end

