-- ==== Sys2Proof/Machine/Constants.lean ====
section
/-! DEFINITION. The fixed constants of spec 00_scope.md R5. UNVERIFIED (log entry 10, unsafe): they are the source's
literals, which its requester calls unaudited (91_not_in_source.md N2). -/

namespace Sys2Proof.Machine

/-- SYNC_V1, the v1 sync byte. -/
def syncV1 : Byte := 0xFE

/-- SYNC_V2, the v2 sync byte. -/
def syncV2 : Byte := 0xFD

/-- HDR_LEN_V1, the v1 header bytes after the sync byte. -/
def hdrLenV1 : BitVec 4 := 5

/-- HDR_LEN_V2, the v2 header bytes after the sync byte. -/
def hdrLenV2 : BitVec 4 := 9

/-- SIG_LEN, the length of the signature trailer. -/
def sigLen : BitVec 4 := 13

/-- CRC_SEED, the checksum seed. -/
def crcSeedValue : Checksum := 0xFFFF

end Sys2Proof.Machine
end

