-- ==== Sys2Proof/Machine/State.lean ====
section
/-! DEFINITION. The state of one block instance (spec 10_state.md), what the host and the sink put in and see
(60_exceptions.md R240, R245), and the reasons a step can stop. -/

namespace Sys2Proof.Machine

/-- The six phases of the parser (10_state.md R24). The codes 6 and 7 are no values of this type. -/
inductive Phase where
  | waitSync
  | header
  | payload
  | checksumLow
  | checksumHigh
  | signature
deriving DecidableEq, Repr

/-- The parser state, the record of 10_state.md R23, field by field at its stated width. -/
structure Parser where
  phase : Phase
  v2 : Bool
  hdrLen : BitVec 4
  hdr : Vector Byte 9
  hdrIdx : BitVec 4
  payLen : Byte
  /-- The payload buffer. It has PAYLOAD_CAP bytes (R26); Safety.lean states that as part of the invariant. -/
  pay : List Byte
  payIdx : Byte
  incompat : Byte
  signed : Bool
  sigCnt : BitVec 4
  rxCk : Checksum
deriving DecidableEq, Repr

/-- Every parser field at its reset value (10_state.md R23, 41_parser.md R139), for a payload buffer of cap bytes. -/
def Parser.reset (cap : Byte) : Parser where
  phase := .waitSync
  v2 := false
  hdrLen := 5
  hdr := Vector.replicate 9 0
  hdrIdx := 0
  payLen := 0
  pay := List.replicate cap.toNat 0
  payIdx := 0
  incompat := 0
  signed := false
  sigCnt := 0
  rxCk := 0

/-- A decoded, checksum-verified frame (10_state.md R34). -/
structure Message where
  msgid : MsgId
  sysid : Byte
  compid : Byte
  len : Byte
  payload : List Byte
deriving DecidableEq, Repr

/-- The response status (30_encoding.md R76, 60_exceptions.md R222). -/
inductive Status where
  | ok
  | illegal
  | sendFail
deriving DecidableEq, Repr

/-- The response record (30_encoding.md R76). A field a command does not carry is none; DEDUCED (log entry 17, safe): a FEED
that yields no message and a command that carries no msg field both have msg = none, as R76 writes absence. -/
structure Response where
  status : Status
  msg : Option Message
  acc : Option Checksum
  found : Option Bool
  salt : Option Byte
deriving DecidableEq, Repr

/-- The sink's answer to one write attempt (00_scope.md R9). -/
inductive SinkAnswer where
  /-- The sink took the first n of the bytes offered. -/
  | accepted (n : Nat)
  | interrupted
  | fault
deriving DecidableEq, Repr

/-- One block instance with its interface. -/
structure State where
  /-- The configuration (00_scope.md R5). No step writes it (70_reset_and_hazards.md R262). -/
  cfg : Config
  /-- The parser state (10_state.md R23). -/
  parser : Parser
  /-- s.crc_acc (10_state.md R28). -/
  crcAcc : Checksum
  /-- The command words the host has issued and the block has not taken, oldest first. DESIGN CHOICE (log entry 4, safe). -/
  cmds : List CmdWord
  /-- The responses given so far, oldest first (60_exceptions.md R245). DESIGN CHOICE (log entry 5, safe). -/
  responses : List Response
  /-- The sink's answers to the write attempts to come, oldest first (00_scope.md R9). DESIGN CHOICE (log entry 6, safe). -/
  sinkAnswers : List SinkAnswer
  /-- The sequences offered to the sink in the write attempts it has answered, oldest first (43_encoder.md R195). DESIGN CHOICE
  (log entry 5, safe). -/
  sinkOffers : List (List Byte)
  /-- The bytes the sink has accepted so far, oldest first (60_exceptions.md R245). DESIGN CHOICE (log entry 5, safe). -/
  sinkBytes : List Byte
  /-- The bytes F[k .. N-1] of a frame whose write protocol has not ended, if any (43_encoder.md R195). DESIGN CHOICE
  (log entry 6, safe). -/
  sending : Option (List Byte)
deriving DecidableEq, Repr

/-- Why a step stops with a fault. -/
inductive Fault where
  /-- Raised by SEND_HB, and by the write protocol it left open, when the next sink answer is accepted 0 or accepts more bytes
  than were offered: 00_scope.md R9 says no sink answers so, and gives that answer no effect. Safe (log entry 7). -/
  | sinkAnswerOutOfRange
deriving DecidableEq, Repr

/-- Why a step or the boot is refused. -/
inductive Refusal where
  /-- Answered by an arm of exec whose instruction has no meaning yet. No arm of this model does. Safe. -/
  | notModelled (mnemonic : String)
  /-- Answered by powerOn for a configuration that fails a check of 00_scope.md R6 ("A model refuses a configuration that fails
  any check"). Safe. -/
  | illFormedConfig
deriving DecidableEq, Repr

/-- The block at power-on under a configuration (70_reset_and_hazards.md R260), before the host has issued anything. -/
def State.powerOn (c : Config) : State where
  cfg := c
  parser := Parser.reset c.payloadCap
  crcAcc := crcSeedValue
  cmds := []
  responses := []
  sinkAnswers := []
  sinkOffers := []
  sinkBytes := []
  sending := none

/-- The machine right after reset: power-on in the source's deployment. DESIGN CHOICE (log entry 2, safe): the values the spec
leaves open are constants without a body. -/
def State.reset : State := State.powerOn Config.deployed

end Sys2Proof.Machine
end

