-- ==== Sys2Proof/WellFormed.lean ====
section
/-! DEFINITION. The checks on what the host writes down: a raw configuration (00_scope.md R6) and an assembler line
(30_encoding.md R75). A term of Instr needs no check: its operands have the widths of 30_encoding.md R71 by type. -/

namespace Sys2Proof

/-- The five checks of 00_scope.md R6: HB_MSGID is a key of REGISTRY, HB_PAYLOAD has 9 bytes, PAYLOAD_CAP is at most 255,
every key is below 2^24 and every salt below 2^8. -/
def RawConfig.wellFormed (r : RawConfig) : Bool :=
  (r.registry.lookup r.hbMsgid).isSome
    && r.hbPayload.length == 9
    && decide (r.payloadCap ≤ 255)
    && r.registry.all (fun e => decide (e.1 < 2 ^ 24))
    && r.registry.all (fun e => decide (e.2 < 2 ^ 8))

/-- The registry pairs of a raw configuration at their stated widths. -/
def RawConfig.registryEntries (r : RawConfig) : List (MsgId × Byte) :=
  r.registry.map (fun e => (BitVec.ofNat 24 e.1, BitVec.ofNat 8 e.2))

theorem lookup_map_ofNat_isSome (l : List (Nat × Nat)) (k : Nat) (h : (l.lookup k).isSome = true) :
    ((l.map (fun e => (BitVec.ofNat 24 e.1, BitVec.ofNat 8 e.2))).lookup (BitVec.ofNat 24 k)).isSome = true := by
  induction l with
  | nil => simp at h
  | cons e l ih =>
    rw [List.map_cons, List.lookup_cons]
    split
    · rfl
    · rename_i hne
      apply ih
      rw [List.lookup_cons] at h
      split at h
      · rename_i heq
        rw [beq_iff_eq.mp heq, beq_self_eq_true] at hne
        cases hne
      · exact h

/-- The configuration a well-formed raw configuration stands for; none where a check of R6 fails. -/
def Config.ofRaw (r : RawConfig) : Option Config :=
  if h : r.wellFormed = true then
    some
      { payloadCap := BitVec.ofNat 8 r.payloadCap
        registry := r.registryEntries
        hbMsgid := BitVec.ofNat 24 r.hbMsgid
        hbPayload := ⟨r.hbPayload.toArray, by
          simp only [RawConfig.wellFormed, Bool.and_eq_true, beq_iff_eq] at h
          simpa using h.1.1.1.2⟩
        dzBase := r.dzBase
        hbRegistered := by
          simp only [RawConfig.wellFormed, Bool.and_eq_true] at h
          exact lookup_map_ofNat_isSome r.registry r.hbMsgid h.1.1.1.1 }
  else none

/-- An operand that fits its field (R75): a byte, a checksum value, an identifier. -/
def fitsByte (n : Nat) : Bool := decide (n ≤ 0xFF)

/-- See fitsByte. -/
def fitsChecksum (n : Nat) : Bool := decide (n ≤ 0xFFFF)

/-- See fitsByte. -/
def fitsMsgId (n : Nat) : Bool := decide (n ≤ 0xFFFFFF)

/-- The lines that are no assembly error (R75): every operand in its field's range, and a pseudo-instruction with at least
the operand b0 its form writes. -/
def AsmLine.wellFormed : AsmLine → Bool
  | .reset => true
  | .feed b => fitsByte b
  | .crcSeed => true
  | .crcLoad v => fitsChecksum v
  | .crcByte b => fitsByte b
  | .crcSalt id => fitsMsgId id
  | .lookup id => fitsMsgId id
  | .sendHb seq sysid compid => fitsByte seq && fitsByte sysid && fitsByte compid
  | .feeds bs => !bs.isEmpty && bs.all fitsByte
  | .crcBuf bs => !bs.isEmpty && bs.all fitsByte

end Sys2Proof
end

