-- ==== Sys2Proof/Machine/Ops.lean ====
section
/-! DEFINITION. The operations the commands share: the checksum function, the registry lookup, resynchronization, the
response, the heartbeat's write protocol, the boot, and taking a command word. The block has no exception to take and
none to return from (60_exceptions.md R220, R226, R227): answering ILLEGAL is the nearest it has. -/

namespace Sys2Proof.Machine

/-- crc_step (40_checksum.md R100). tmp is 8 bits wide: the left shift drops what passes bit 7 (90_conflicts.md C2). -/
def crcStep (c : Checksum) (b : Byte) : Checksum :=
  let tmp0 : Byte := b ^^^ c.extractLsb' 0 8
  let tmp : Byte := tmp0 ^^^ (tmp0 <<< 4)
  (c >>> 8) ^^^ (tmp.setWidth 16 <<< 8) ^^^ (tmp.setWidth 16 <<< 3) ^^^ (tmp.setWidth 16 >>> 4)

/-- crc_fold (40_checksum.md R101), with no final complement (90_conflicts.md C1). -/
def crcFold (c : Checksum) (bytes : List Byte) : Checksum := bytes.foldl crcStep c

/-- lookup (42_registry.md R170): some salt where found is 1, none where it is 0, and then no salt exists. -/
def registryLookup (c : Config) (id : MsgId) : Option Byte := c.registry.lookup id

/-- The step that folds a salt if there is one (41_parser.md R137, 42_registry.md R174). -/
def foldSalt (c : Checksum) (salt : Option Byte) : Checksum :=
  match salt with
  | some x => crcStep c x
  | none => c

/-- resync (41_parser.md R139): every parser field at its reset value. -/
def resync (cfg : Config) : Parser := Parser.reset cfg.payloadCap

/-- The code of a phase (10_state.md R24). -/
def phaseCode : Phase → BitVec 3
  | .waitSync => 0
  | .header => 1
  | .payload => 2
  | .checksumLow => 3
  | .checksumHigh => 4
  | .signature => 5

/-- The code of a status (30_encoding.md R76). -/
def statusCode : Status → BitVec 2
  | .ok => 0
  | .illegal => 1
  | .sendFail => 2

/-- The response that carries only a status (30_encoding.md R76). -/
def bareResponse (st : Status) : Response where
  status := st
  msg := none
  acc := none
  found := none
  salt := none

/-- The response of CRC_SEED, CRC_LOAD and CRC_BYTE: OK with the accumulator (30_encoding.md R76). -/
def accResponse (acc : Checksum) : Response := { bareResponse .ok with acc := some acc }

/-- The response of FEED: OK with msg (41_parser.md R120). -/
def msgResponse (m : Option Message) : Response := { bareResponse .ok with msg := m }

/-- The response of LOOKUP: OK with found, and salt only when found (42_registry.md R173). -/
def lookupResponse (salt : Option Byte) : Response :=
  { bareResponse .ok with found := some salt.isSome, salt := salt }

/-- The response of CRC_SALT: OK with acc, found, and salt only when found (42_registry.md R174). -/
def saltResponse (acc : Checksum) (salt : Option Byte) : Response :=
  { lookupResponse salt with acc := some acc }

/-- The state after the block has given a response (30_encoding.md R76). -/
def State.respond (s : State) (r : Response) : State := { s with responses := s.responses ++ [r] }

/-- The state with another accumulator value. -/
def State.withCrcAcc (s : State) (c : Checksum) : State := { s with crcAcc := c }

/-- The state with another parser state. -/
def State.withParser (s : State) (p : Parser) : State := { s with parser := p }

/-- The state after the block has taken a command word, with these words still to come (20_memory.md R59). -/
def State.withCmds (s : State) (ws : List CmdWord) : State := { s with cmds := ws }

/-- How a run of the write protocol over the answers at hand ends (43_encoder.md R195). -/
inductive SinkEnd where
  /-- The sink has accepted the whole rest: return OK. -/
  | done
  /-- The sink answered Fault: return SEND_FAIL. -/
  | failed
  /-- The answers at hand ran out before either: the command is still open (70_reset_and_hazards.md R275). -/
  | waiting
  /-- An answer breaks the law of 00_scope.md R9. -/
  | outOfRange
deriving DecidableEq, Repr

/-- What a run of the write protocol leaves: the sequences it offered, one an attempt, the bytes the sink accepted, the bytes
it did not, the answers not used. -/
structure Delivery where
  offers : List (List Byte)
  accepted : List Byte
  rest : List Byte
  answers : List SinkAnswer
  verdict : SinkEnd
deriving DecidableEq, Repr

/-- The delivery with one attempt before it that offered this and had these bytes accepted. -/
def Delivery.after (d : Delivery) (offered taken : List Byte) : Delivery :=
  { d with offers := offered :: d.offers, accepted := taken ++ d.accepted }

/-- The loop of sink_send (43_encoder.md R195) from a rest F[k .. N-1], over the answers the sink gives: each attempt offers
the whole rest, an acceptance of n bytes moves on by n, an interruption offers the same rest again, a fault ends it. -/
def sinkSend (rest : List Byte) : List SinkAnswer → Delivery
  | [] => ⟨[], [], rest, [], if rest.isEmpty then .done else .waiting⟩
  | a :: as =>
    if rest.isEmpty then ⟨[], [], rest, a :: as, .done⟩
    else match a with
      | .accepted n =>
        if 1 ≤ n ∧ n ≤ rest.length then (sinkSend (rest.drop n) as).after rest (rest.take n)
        else ⟨[rest], [], rest, as, .outOfRange⟩
      | .interrupted => (sinkSend rest as).after rest []
      | .fault => ⟨[rest], [], rest, as, .failed⟩

/-- The state after a delivery: its attempts are made, the accepted bytes are with the sink and the answers used are gone
(43_encoder.md R195). -/
def State.withDelivery (s : State) (d : Delivery) (rest : Option (List Byte)) : State :=
  { s with
    sinkAnswers := d.answers
    sinkOffers := s.sinkOffers ++ d.offers
    sinkBytes := s.sinkBytes ++ d.accepted
    sending := rest }

/-- The end of a run of the write protocol (43_encoder.md R190, R195, R196): OK when the sink has the whole frame, SEND_FAIL on
a fault. Where the sink has given no final answer the command stays open with the rest it still offers, and no response
is given (70_reset_and_hazards.md R275, I6). -/
def endDelivery (s : State) (d : Delivery) : Host.Outcome State Fault Refusal :=
  match d.verdict with
  | .done => .next ((s.withDelivery d none).respond (bareResponse .ok))
  | .failed => .next ((s.withDelivery d none).respond (bareResponse .sendFail))
  | .waiting => .next (s.withDelivery d (some d.rest))
  | .outOfRange => .fault .sinkAnswerOutOfRange

/-- sink_send from a rest F[k .. N-1], over the answers at hand (43_encoder.md R195). -/
def deliver (rest : List Byte) (s : State) : Host.Outcome State Fault Refusal :=
  endDelivery s (sinkSend rest s.sinkAnswers)

/-- An illegal word answers ILLEGAL and changes nothing else (30_encoding.md R73). -/
def answerIllegal (s : State) : Host.Outcome State Fault Refusal := .next (s.respond (bareResponse .illegal))

/-- With no command issued the block holds its state (60_exceptions.md R234). DESIGN CHOICE (log entry 4, safe). -/
def holdState (s : State) : Host.Outcome State Fault Refusal := .next s

/-- The state in which the very next step takes this command word: the host has issued it ahead of the words still to come,
and no write protocol is open, since the block takes no word while one is (log entry 4). -/
def issueNext (s : State) (w : CmdWord) : State := { s with cmds := w :: s.cmds, sending := none }

/-- Boot (70_reset_and_hazards.md R262, R263): an ill-formed configuration is refused and the block is not started; a
well-formed one is fixed and the block powers on. -/
def powerOn (r : RawConfig) : Host.Outcome State Fault Refusal :=
  match Config.ofRaw r with
  | some cfg => .next (State.powerOn cfg)
  | none => .refused .illFormedConfig

end Sys2Proof.Machine
end

