-- ==== Sys2Proof/Machine/ChecksumEngine.lean ====
section
/-! DEFINITION. The accumulator commands CRC_SEED, CRC_LOAD and CRC_BYTE (40_checksum.md R104 to R106). -/

namespace Sys2Proof.Machine

/-- CRC_SEED (40_checksum.md R104). -/
def execCrcSeed (s : State) : Host.Outcome State Fault Refusal :=
  .next ((s.withCrcAcc crcSeedValue).respond (accResponse crcSeedValue))

/-- CRC_LOAD v (40_checksum.md R105). -/
def execCrcLoad (v : Checksum) (s : State) : Host.Outcome State Fault Refusal :=
  .next ((s.withCrcAcc v).respond (accResponse v))

/-- CRC_BYTE b (40_checksum.md R106). -/
def execCrcByte (b : Byte) (s : State) : Host.Outcome State Fault Refusal :=
  .next ((s.withCrcAcc (crcStep s.crcAcc b)).respond (accResponse (crcStep s.crcAcc b)))

end Sys2Proof.Machine
end

