-- ==== Sys2Proof/Machine/FrameEncoder.lean ====
section
/-! DEFINITION. The frame encoder (43_encoder.md): the heartbeat frame and the command SEND_HB. -/

namespace Sys2Proof.Machine

/-- REGISTRY(HB_MSGID), defined because the configuration is well formed (43_encoder.md R192, 00_scope.md R6). -/
def hbSalt (cfg : Config) : Byte := (cfg.registry.lookup cfg.hbMsgid).get cfg.hbRegistered

/-- Frame offsets 1 to 9 of the heartbeat (43_encoder.md R191): incompat and compat are written as 0x00 (D15; log entry 9). -/
def hbHeader (cfg : Config) (seq sysid compid : Byte) : List Byte :=
  [BitVec.ofNat 8 cfg.hbPayload.toList.length, 0x00, 0x00, seq, sysid, compid,
    cfg.hbMsgid.extractLsb' 0 8, cfg.hbMsgid.extractLsb' 8 8, cfg.hbMsgid.extractLsb' 16 8]

/-- The checksum of the heartbeat (43_encoder.md R192). -/
def hbChecksum (cfg : Config) (seq sysid compid : Byte) : Checksum :=
  crcStep (crcFold crcSeedValue (hbHeader cfg seq sysid compid ++ cfg.hbPayload.toList)) (hbSalt cfg)

/-- hb_frame (43_encoder.md R191): 21 bytes, the checksum little-endian at the end (20_memory.md R53). -/
def hbFrame (cfg : Config) (seq sysid compid : Byte) : List Byte :=
  syncV2 :: (hbHeader cfg seq sysid compid ++ cfg.hbPayload.toList
    ++ [(hbChecksum cfg seq sysid compid).extractLsb' 0 8, (hbChecksum cfg seq sysid compid).extractLsb' 8 8])

/-- SEND_HB seq, sysid, compid (43_encoder.md R190). -/
def execSendHb (seq sysid compid : Byte) (s : State) : Host.Outcome State Fault Refusal :=
  deliver (hbFrame s.cfg seq sysid compid) s

end Sys2Proof.Machine
end

