-- ==== Sys2Proof/Machine/Operands.lean ====
section
/-! DEFINITION. The operands of the parser's own work: the fields of the header buffer (10_state.md R27, 30_encoding.md
R82), the payload, and the buffer writes at the fill cursors (10_state.md R26). The operands of a command word are sliced
in Sys2Proof/Decode.lean. -/

namespace Sys2Proof.Machine

/-- len, header index 0 in both versions (R27). -/
def lenField (p : Parser) : Byte := p.hdr[0]

/-- incompat, header index 1 of a v2 header (R27). -/
def incompatField (p : Parser) : Byte := p.hdr[1]

/-- sysid: header index 4 in v2, 2 in v1 (R27). -/
def sysidField (p : Parser) : Byte := if p.v2 then p.hdr[4] else p.hdr[2]

/-- compid: header index 5 in v2, 3 in v1 (R27). -/
def compidField (p : Parser) : Byte := if p.v2 then p.hdr[5] else p.hdr[3]

/-- msgid: in v2 the three bytes at header indices 6 to 8, the lowest first (20_memory.md R53); in v1 the byte at header
index 4, zero-extended (41_parser.md R137, D21). -/
def msgidField (p : Parser) : MsgId :=
  if p.v2 then p.hdr[8] ++ (p.hdr[7] ++ p.hdr[6]) else p.hdr[4].setWidth 24

/-- The header bytes transmitted, s.hdr[0 .. s.hdr_len-1] (41_parser.md R137). -/
def headerBytes (p : Parser) : List Byte := p.hdr.toList.take p.hdrLen.toNat

/-- The payload bytes, s.pay[0 .. s.pay_len-1] (41_parser.md R137). -/
def payloadBytes (p : Parser) : List Byte := p.pay.take p.payLen.toNat

/-- s.hdr[s.hdr_idx] <- b; s.hdr_idx <- s.hdr_idx + 1 (41_parser.md R128). DESIGN CHOICE (log entry 8, safe for every run): at
a cursor beyond the buffer, which no run reaches (10_state.md R30), no byte is stored. -/
def appendHeader (p : Parser) (b : Byte) : Parser :=
  { p with hdr := p.hdr.setIfInBounds p.hdrIdx.toNat b, hdrIdx := p.hdrIdx + 1 }

/-- s.pay[s.pay_idx] <- b; s.pay_idx <- s.pay_idx + 1 (41_parser.md R133). DESIGN CHOICE (log entry 8, safe for every run): as
appendHeader. -/
def appendPayload (p : Parser) (b : Byte) : Parser :=
  { p with pay := p.pay.set p.payIdx.toNat b, payIdx := p.payIdx + 1 }

end Sys2Proof.Machine
end

