-- ==== Sys2Proof/Machine/Flags.lean ====
section
/-! DEFINITION. The two status flags s.v2 and s.signed (10_state.md R25): where each is written and what is read from
them. Resynchronization, which clears both, is resync of Machine/Ops.lean. -/

namespace Sys2Proof.Machine

/-- Version detection at the v2 sync byte (41_parser.md R126). -/
def selectV2 (p : Parser) : Parser := { p with v2 := true, hdrLen := hdrLenV2, hdrIdx := 0, phase := .header }

/-- Version detection at the v1 sync byte (41_parser.md R126). -/
def selectV1 (p : Parser) : Parser := { p with v2 := false, hdrLen := hdrLenV1, hdrIdx := 0, phase := .header }

/-- The signed-frame flag at header completion (41_parser.md R130): bit 0 of incompat in v2, 0 in v1. The other bits of
incompat and the compat byte are not examined (D20). -/
def readSignedFlag (p : Parser) : Parser :=
  if p.v2 then { p with incompat := incompatField p, signed := (incompatField p).getLsbD 0 }
  else { p with signed := false }

/-- Whether a signature trailer follows the checksum (41_parser.md R135). -/
def trailerFollows (p : Parser) : Bool := p.v2 && p.signed

end Sys2Proof.Machine
end

