-- ==== Sys2Proof/Machine/FrameParser.lean ====
section
/-! DEFINITION. The frame parser (41_parser.md): its transition function, and the commands FEED and RESET. -/

namespace Sys2Proof.Machine

/-- WaitSync (41_parser.md R125, R126). -/
def stepWaitSync (p : Parser) (b : Byte) : Parser :=
  if b = syncV2 then selectV2 p else if b = syncV1 then selectV1 p else p

/-- Header completion, after the append (41_parser.md R129 to R131): the length check first, then the signed flag, then the
next phase. -/
def completeHeader (cfg : Config) (p : Parser) : Parser :=
  if cfg.payloadCap < lenField p then resync cfg
  else
    { readSignedFlag { p with payLen := lenField p } with
      payIdx := 0
      phase := if lenField p = 0 then .checksumLow else .payload }

/-- Header (41_parser.md R128, R129). -/
def stepHeader (cfg : Config) (p : Parser) (b : Byte) : Parser :=
  if (appendHeader p b).hdrIdx = p.hdrLen then completeHeader cfg (appendHeader p b) else appendHeader p b

/-- Payload (41_parser.md R133). -/
def stepPayload (p : Parser) (b : Byte) : Parser :=
  if (appendPayload p b).payIdx = p.payLen then { appendPayload p b with phase := .checksumLow } else appendPayload p b

/-- ChecksumLow (41_parser.md R134): the whole register is written, its high byte with 0. -/
def stepChecksumLow (p : Parser) (b : Byte) : Parser := { p with rxCk := b.setWidth 16, phase := .checksumHigh }

/-- The register after ChecksumHigh (41_parser.md R135). -/
def withChecksumHigh (p : Parser) (b : Byte) : Parser := { p with rxCk := p.rxCk ||| (b.setWidth 16 <<< 8) }

/-- The checksum finalization recomputes (41_parser.md R137): seed, header bytes, payload bytes, then the salt if the
identifier is registered. -/
def recomputedChecksum (cfg : Config) (p : Parser) : Checksum :=
  foldSalt (crcFold (crcFold crcSeedValue (headerBytes p)) (payloadBytes p)) (registryLookup cfg (msgidField p))

/-- The message of the frame the parser holds (41_parser.md R138, 10_state.md R34). -/
def frameMessage (p : Parser) : Message where
  msgid := msgidField p
  sysid := sysidField p
  compid := compidField p
  len := p.payLen
  payload := payloadBytes p

/-- The verdict of finalization (41_parser.md R138): the identifier is registered and the checksums are equal. -/
def frameAccepted (cfg : Config) (p : Parser) : Bool :=
  (registryLookup cfg (msgidField p)).isSome && recomputedChecksum cfg p == p.rxCk

/-- finalize (41_parser.md R137, R138): the message is built before the resync. -/
def finalize (cfg : Config) (p : Parser) : Parser × Option Message :=
  (resync cfg, if frameAccepted cfg p then some (frameMessage p) else none)

/-- ChecksumHigh (41_parser.md R135). -/
def stepChecksumHigh (cfg : Config) (p : Parser) (b : Byte) : Parser × Option Message :=
  if trailerFollows p then ({ withChecksumHigh p b with sigCnt := 0, phase := .signature }, none)
  else finalize cfg (withChecksumHigh p b)

/-- Signature (41_parser.md R136): the byte is counted, not examined and not stored. -/
def stepSignature (cfg : Config) (p : Parser) : Parser × Option Message :=
  if p.sigCnt + 1 = sigLen then finalize cfg { p with sigCnt := p.sigCnt + 1 }
  else ({ p with sigCnt := p.sigCnt + 1 }, none)

/-- parse_step (41_parser.md R124). -/
def parseStep (cfg : Config) (p : Parser) (b : Byte) : Parser × Option Message :=
  match p.phase with
  | .waitSync => (stepWaitSync p b, none)
  | .header => (stepHeader cfg p b, none)
  | .payload => (stepPayload p b, none)
  | .checksumLow => (stepChecksumLow p b, none)
  | .checksumHigh => stepChecksumHigh cfg p b
  | .signature => stepSignature cfg p

/-- The state after one byte has been parsed and answered (41_parser.md R120, R121). -/
def feedNext (b : Byte) (s : State) : State :=
  (s.withParser (parseStep s.cfg s.parser b).1).respond (msgResponse (parseStep s.cfg s.parser b).2)

/-- FEED b (41_parser.md R120). -/
def execFeed (b : Byte) (s : State) : Host.Outcome State Fault Refusal := .next (feedNext b s)

/-- RESET (41_parser.md R122). -/
def execReset (s : State) : Host.Outcome State Fault Refusal :=
  .next ((s.withParser (resync s.cfg)).respond (bareResponse .ok))

end Sys2Proof.Machine
end

