-- ==== Sys2Proof/Machine/Registry.lean ====
section
/-! DEFINITION. The registry commands LOOKUP and CRC_SALT (42_registry.md R173, R174). -/

namespace Sys2Proof.Machine

/-- LOOKUP id (42_registry.md R173). -/
def execLookup (id : MsgId) (s : State) : Host.Outcome State Fault Refusal :=
  .next (s.respond (lookupResponse (registryLookup s.cfg id)))

/-- CRC_SALT id (42_registry.md R174). -/
def execCrcSalt (id : MsgId) (s : State) : Host.Outcome State Fault Refusal :=
  .next ((s.withCrcAcc (foldSalt s.crcAcc (registryLookup s.cfg id))).respond
    (saltResponse (foldSalt s.crcAcc (registryLookup s.cfg id)) (registryLookup s.cfg id)))

end Sys2Proof.Machine
end

