-- ==== Sys2Proof/Machine/Dispatch.lean ====
section
/-! DEFINITION. The meaning of each command, one arm per constructor of Instr. -/

namespace Sys2Proof.Machine

def exec (i : Instr) (s : State) : Host.Outcome State Fault Refusal :=
  match i with
  | .reset => Sys2Proof.Machine.execReset s
  | .feed b => Sys2Proof.Machine.execFeed b s
  | .crcSeed => Sys2Proof.Machine.execCrcSeed s
  | .crcLoad v => Sys2Proof.Machine.execCrcLoad v s
  | .crcByte b => Sys2Proof.Machine.execCrcByte b s
  | .crcSalt id => Sys2Proof.Machine.execCrcSalt id s
  | .lookup id => Sys2Proof.Machine.execLookup id s
  | .sendHb seq sysid compid => Sys2Proof.Machine.execSendHb seq sysid compid s

end Sys2Proof.Machine
end

