-- ==== Sys2Proof/Machine/Step.lean ====
section
/-! DEFINITION. One step of the machine: go on with a write protocol that is open, else take the next command word the
host has issued, else hold. -/

namespace Sys2Proof.Machine

/-- One transaction (20_memory.md R57, R59). A word is taken only when no SEND_HB is open (60_exceptions.md R240, D35); it is
decoded first, and an illegal one answers ILLEGAL (60_exceptions.md R224). -/
def step (s : State) : Host.Outcome State Fault Refusal :=
  match s.sending with
  | some rest => deliver rest s
  | none =>
    match s.cmds with
    | [] => holdState s
    | w :: ws =>
      match decode w with
      | .ok i => exec i (s.withCmds ws)
      | .error _ => answerIllegal (s.withCmds ws)

/-- The state whose next command word is the table word w of nbits bits: the host has issued it ahead of the words still to
come (log entry 4). -/
def State.withFetchWord (s : State) (nbits w : Nat) : State := issueNext s (BitVec.ofNat 32 (w % 2 ^ nbits))

end Sys2Proof.Machine
end

