-- ==== Sys2Proof/Machine/Assembler.lean ====
section
/-! DEFINITION. The assembler syntax of 30_encoding.md R75: the commands a line stands for, and the reading of a line's
characters. DESIGN CHOICE (log entry 11, safe): what R75 leaves open of the characters (blanks around an operand, the
letters of a hexadecimal digit) is fixed here; nothing in the block reads it. -/

namespace Sys2Proof.Machine

/-- The commands of a line; none where the line is an assembly error (R75). -/
def assemble (l : AsmLine) : Option (List Instr) :=
  if l.wellFormed then
    some (match l with
      | .reset => [.reset]
      | .feed b => [.feed (BitVec.ofNat 8 b)]
      | .crcSeed => [.crcSeed]
      | .crcLoad v => [.crcLoad (BitVec.ofNat 16 v)]
      | .crcByte b => [.crcByte (BitVec.ofNat 8 b)]
      | .crcSalt id => [.crcSalt (BitVec.ofNat 24 id)]
      | .lookup id => [.lookup (BitVec.ofNat 24 id)]
      | .sendHb seq sysid compid => [.sendHb (BitVec.ofNat 8 seq) (BitVec.ofNat 8 sysid) (BitVec.ofNat 8 compid)]
      | .feeds bs => bs.map (fun b => .feed (BitVec.ofNat 8 b))
      | .crcBuf bs => bs.map (fun b => .crcByte (BitVec.ofNat 8 b)))
  else none

/-- The value of a digit in base 10 or 16. -/
def digitValue (base : Nat) (c : Char) : Option Nat :=
  let n := c.toNat
  if 48 ≤ n ∧ n ≤ 57 then some (n - 48)
  else if base = 16 ∧ 65 ≤ n ∧ n ≤ 70 then some (n - 55)
  else if base = 16 ∧ 97 ≤ n ∧ n ≤ 102 then some (n - 87)
  else none

/-- The number a run of digits stands for, from a running value. -/
def digitsValue (base : Nat) : List Char → Nat → Option Nat
  | [], acc => some acc
  | c :: cs, acc => (digitValue base c).bind (fun d => digitsValue base cs (acc * base + d))

/-- A number, decimal or 0x hexadecimal (R75), with at least one digit. -/
def readNumber : List Char → Option Nat
  | '0' :: 'x' :: d :: ds => digitsValue 16 (d :: ds) 0
  | d :: ds => digitsValue 10 (d :: ds) 0
  | [] => none

/-- The characters without the blanks before and after them. -/
def trimBlanks (cs : List Char) : List Char :=
  ((cs.dropWhile (· == ' ')).reverse.dropWhile (· == ' ')).reverse

/-- The pieces between commas. -/
def splitCommas : List Char → List (List Char)
  | [] => [[]]
  | c :: cs =>
    if c = ',' then [] :: splitCommas cs
    else match splitCommas cs with
      | [] => [[c]]
      | t :: ts => (c :: t) :: ts

/-- The operands after a mnemonic: none at all, or numbers separated by commas (R75). -/
def readOperands (cs : List Char) : Option (List Nat) :=
  if (trimBlanks cs).isEmpty then some [] else (splitCommas cs).mapM (fun t => readNumber (trimBlanks t))

/-- The line of a mnemonic and its operands, where the mnemonic takes that many (R75). -/
def lineOf (mnemonic : List Char) (operands : List Nat) : Option AsmLine :=
  if mnemonic = ['R', 'E', 'S', 'E', 'T'] then
    if operands.isEmpty then some .reset else none
  else if mnemonic = ['F', 'E', 'E', 'D'] then
    match operands with
    | [b] => some (.feed b)
    | _ => none
  else if mnemonic = ['C', 'R', 'C', '_', 'S', 'E', 'E', 'D'] then
    if operands.isEmpty then some .crcSeed else none
  else if mnemonic = ['C', 'R', 'C', '_', 'L', 'O', 'A', 'D'] then
    match operands with
    | [v] => some (.crcLoad v)
    | _ => none
  else if mnemonic = ['C', 'R', 'C', '_', 'B', 'Y', 'T', 'E'] then
    match operands with
    | [b] => some (.crcByte b)
    | _ => none
  else if mnemonic = ['C', 'R', 'C', '_', 'S', 'A', 'L', 'T'] then
    match operands with
    | [id] => some (.crcSalt id)
    | _ => none
  else if mnemonic = ['L', 'O', 'O', 'K', 'U', 'P'] then
    match operands with
    | [id] => some (.lookup id)
    | _ => none
  else if mnemonic = ['S', 'E', 'N', 'D', '_', 'H', 'B'] then
    match operands with
    | [seq, sysid, compid] => some (.sendHb seq sysid compid)
    | _ => none
  else if mnemonic = ['F', 'E', 'E', 'D', 'S'] then some (.feeds operands)
  else if mnemonic = ['C', 'R', 'C', '_', 'B', 'U', 'F'] then some (.crcBuf operands)
  else none

/-- The line a run of characters writes: the mnemonic up to the first blank, then its operands (R75). -/
def readLine (cs : List Char) : Option AsmLine :=
  let line := trimBlanks cs
  (readOperands (line.dropWhile (· != ' '))).bind (lineOf (line.takeWhile (· != ' ')))

end Sys2Proof.Machine
end

