-- ==== Sys2Proof/Machine/Reader.lean ====
section
/-! DEFINITION. The Bounded-Wait Reader (60_exceptions.md R242 to R244). It is host software: 00_scope.md R4(b) puts it
outside the block and no step calls it. It drives the block by FEED alone. -/

namespace Sys2Proof.Machine

/-- What one read of the byte source gives the reader (R242, R244). -/
inductive ReadResult where
  /-- One buffer of bytes; no byte at all is the zero-byte read. -/
  | bytes (bs : List Byte)
  /-- Transient unavailability, or nothing readable within the timeout. -/
  | unavailable
  /-- An unrecoverable read fault. -/
  | fault
deriving DecidableEq, Repr

/-- The outcomes of await_message (R242). -/
inductive ReaderOutcome where
  | found (m : Message)
  | timedOut
  | fatalError
deriving DecidableEq, Repr

/-- Feeding one read buffer (R242, R243): the reader stops at the first message with the target identifier, and the bytes after
it are not fed (D34); any other message is discarded. -/
def feedBuffer (target : MsgId) : List Byte → State → Option Message × State
  | [], s => (none, s)
  | b :: bs, s =>
    match (parseStep s.cfg s.parser b).2 with
    | some m => if m.msgid = target then (some m, feedNext b s) else feedBuffer target bs (feedNext b s)
    | none => feedBuffer target bs (feedNext b s)

/-- await_message over the reads it makes before its timeout (R242 to R244). DESIGN CHOICE (log entry 14, safe): whether it reads
again after a buffer without the target is not said (91_not_in_source.md N10), so the reads it makes are an argument. -/
def awaitMessage (target : MsgId) : List ReadResult → State → ReaderOutcome × State
  | [], s => (.timedOut, s)
  | .unavailable :: _, s => (.timedOut, s)
  | .fault :: _, s => (.fatalError, s)
  | .bytes bs :: reads, s =>
    if bs.isEmpty then (.timedOut, s)
    else match feedBuffer target bs s with
      | (some m, t) => (.found m, t)
      | (none, t) => awaitMessage target reads t

end Sys2Proof.Machine
end

