-- ==== Sys2Proof/Safety.lean ====
section
/-! DEFINITION. What counts as a safe run, in the terms the statements use: the invariants of 10_state.md R29 and R30, the
states a run reaches from power-on, the run of a list of commands (60_exceptions.md R245), the wire frames of 30_encoding.md
R80 and R81 with the checksum of R86, and the words and checksum form that statements compare the model with. -/

namespace Sys2Proof.Machine

/-- The frame the parser holds is complete up to its checksum: the header is whole, the declared length fits the buffer, and
that many payload bytes are held (10_state.md R29, the condition of ChecksumLow and after). -/
abbrev Parser.FrameHeld (cfg : Config) (p : Parser) : Prop :=
  p.hdrIdx = p.hdrLen ∧ p.payLen ≤ cfg.payloadCap ∧ p.payIdx = p.payLen

/-- The condition of 10_state.md R29 on a phase other than WaitSync. -/
def Parser.PhaseInv (cfg : Config) (p : Parser) : Prop :=
  match p.phase with
  | .waitSync => True
  | .header => p.hdrIdx < p.hdrLen
  | .payload => p.hdrIdx = p.hdrLen ∧ 1 ≤ p.payLen ∧ p.payLen ≤ cfg.payloadCap ∧ p.payIdx < p.payLen
  | .checksumLow => p.FrameHeld cfg
  | .checksumHigh => p.FrameHeld cfg ∧ p.rxCk.extractLsb' 8 8 = 0
  | .signature => p.FrameHeld cfg ∧ p.v2 = true ∧ p.signed = true ∧ p.sigCnt < sigLen

/-- The invariant of the parser (10_state.md R29): the buffer has its capacity (R26), the header length is the version's, the
phase's condition holds, and in WaitSync every field holds its reset value. -/
def Parser.Inv (cfg : Config) (p : Parser) : Prop :=
  p.pay.length = cfg.payloadCap.toNat
    ∧ p.hdrLen = (if p.v2 then hdrLenV2 else hdrLenV1)
    ∧ p.PhaseInv cfg
    ∧ (p.phase = .waitSync → p = resync cfg)

/-- The next byte ends the frame the parser is in: it completes an oversize header (41_parser.md R129), is the high checksum byte
of a frame without a trailer (R135), or is the 13th signature byte (R136). -/
def Parser.AtFrameEnd (cfg : Config) (p : Parser) : Prop :=
  (p.phase = .header ∧ p.hdrIdx + 1 = p.hdrLen ∧ cfg.payloadCap.toNat < p.hdr[0].toNat)
    ∨ (p.phase = .checksumHigh ∧ ¬ (p.v2 = true ∧ p.signed = true))
    ∨ (p.phase = .signature ∧ p.sigCnt = 12)

/-- An open write protocol still offers a nonempty end of one heartbeat frame (43_encoder.md R195). -/
def State.SendingInv (s : State) : Prop :=
  match s.sending with
  | none => True
  | some rest => rest ≠ [] ∧ ∃ seq sysid compid k, rest = (hbFrame s.cfg seq sysid compid).drop k

/-- The invariant of the machine. -/
def State.Inv (s : State) : Prop := s.parser.Inv s.cfg ∧ s.SendingInv

/-- The states a run reaches from power-on under a configuration, whatever the host issues and whatever the sink answers
(60_exceptions.md R245): commands and answers may come in at any time. -/
inductive Reachable (cfg : Config) : State → Prop where
  | powerOn : Reachable cfg (State.powerOn cfg)
  | input (s : State) (ws : List CmdWord) (as : List SinkAnswer) :
      Reachable cfg s → Reachable cfg { s with cmds := s.cmds ++ ws, sinkAnswers := s.sinkAnswers ++ as }
  | step (s t : State) : Reachable cfg s → Machine.step s = .next t → Reachable cfg t

/-- The commands of a list, one after the other (20_memory.md R59), stopping at the first fault or refusal. -/
def runCommands : List Instr → State → Host.Outcome State Fault Refusal
  | [], s => .next s
  | i :: is, s =>
    match exec i s with
    | .next t => runCommands is t
    | .fault r => .fault r
    | .refused r => .refused r

/-- A run of n steps, stopping at the first fault or refusal. -/
def runSteps : Nat → State → Host.Outcome State Fault Refusal
  | 0, s => .next s
  | n + 1, s =>
    match step s with
    | .next t => runSteps n t
    | .fault r => .fault r
    | .refused r => .refused r

/-- A FEED that answers OK with msg, or with none (30_encoding.md R76). -/
def feedResponse (m : Option Message) : Response := ⟨.ok, m, none, none, none⟩

/-- The illegal words in the terms of 30_encoding.md R73: a reserved operation, a nonzero rsv field, or a nonzero bit among
those the operation leaves unused (R72). -/
def IllegalWord (w : CmdWord) : Prop :=
  8 ≤ (w >>> 28).toNat
    ∨ (w >>> 24).toNat % 16 ≠ 0
    ∨ ((w >>> 28).toNat = 0 ∨ (w >>> 28).toNat = 2) ∧ w.toNat % 2 ^ 24 ≠ 0
    ∨ ((w >>> 28).toNat = 1 ∨ (w >>> 28).toNat = 4) ∧ (w >>> 8).toNat % 2 ^ 16 ≠ 0
    ∨ (w >>> 28).toNat = 3 ∧ (w >>> 16).toNat % 2 ^ 8 ≠ 0

/-- The match and the mask of each row of spec/opcode_table.json, in the table's order of operations. -/
def opcodeRows : List (CmdWord × CmdWord) :=
  [(0x00000000, 0xFFFFFFFF), (0x10000000, 0xFFFFFF00), (0x20000000, 0xFFFFFFFF), (0x30000000, 0xFFFF0000),
    (0x40000000, 0xFFFFFF00), (0x50000000, 0xFF000000), (0x60000000, 0xFF000000), (0x70000000, 0xFF000000)]

/-- The operation number of a command (30_encoding.md R72). -/
def opNumber : Instr → Nat
  | .reset => 0
  | .feed _ => 1
  | .crcSeed => 2
  | .crcLoad _ => 3
  | .crcByte _ => 4
  | .crcSalt _ => 5
  | .lookup _ => 6
  | .sendHb _ _ _ => 7

/-- One step of the bitwise reflected CRC with polynomial 0x8408 (40_checksum.md R103). -/
def crcBit (c : Checksum) : Checksum := if c.getLsbD 0 then (c >>> 1) ^^^ 0x8408 else c >>> 1

/-- The bitwise reflected CRC of one byte (40_checksum.md R103). -/
def crcBitwise (c : Checksum) (b : Byte) : Checksum := Nat.iterate crcBit 8 (c ^^^ b.setWidth 16)

/-- The bytes a v1 frame's checksum covers, frame offsets 1 to 5+L (30_encoding.md R80, R86). -/
def v1Covered (seq sysid compid msgid : Byte) (payload : List Byte) : List Byte :=
  [BitVec.ofNat 8 payload.length, seq, sysid, compid, msgid] ++ payload

/-- The bytes a v2 frame's checksum covers, frame offsets 1 to 9+L (30_encoding.md R81, R86). -/
def v2Covered (incompat compat seq sysid compid : Byte) (msgid : MsgId) (payload : List Byte) : List Byte :=
  [BitVec.ofNat 8 payload.length, incompat, compat, seq, sysid, compid,
    msgid.extractLsb' 0 8, msgid.extractLsb' 8 8, msgid.extractLsb' 16 8] ++ payload

/-- The checksum field of a frame, ck_lo then ck_hi (30_encoding.md R80, R81). -/
def checksumField (ck : Checksum) : List Byte := [ck.extractLsb' 0 8, ck.extractLsb' 8 8]

/-- The frame checksum of 30_encoding.md R86, which exists only for a registered identifier. -/
def coverageChecksum (cfg : Config) (msgid : MsgId) (covered : List Byte) : Option Checksum :=
  (cfg.registry.lookup msgid).map (fun salt => (covered ++ [salt]).foldl crcStep 0xFFFF)

/-- The number of bytes that write attempts accept in all, by the sink's answers. -/
def acceptedTotal (answers : List SinkAnswer) : Nat :=
  (answers.map (fun a => match a with
    | .accepted n => n
    | _ => 0)).sum

/-- What the first write attempts offer, one entry an attempt, while the sink gives these answers: each time the frame without the
bytes accepted so far (43_encoder.md R195). -/
def remaindersOffered (frame : List Byte) (answers : List SinkAnswer) (attempts : Nat) : List (List Byte) :=
  (List.range attempts).map (fun i => frame.drop (acceptedTotal (answers.take i)))

/-- Answers that only interrupt or accept at least one byte (00_scope.md R9). -/
def progressing (answers : List SinkAnswer) : Bool :=
  answers.all (fun a => match a with
    | .accepted n => decide (1 ≤ n)
    | .interrupted => true
    | .fault => false)

/-- After answers by which fewer bytes than were offered at first are accepted, the sink accepts no byte, or more than are left:
the answers that break the law of 00_scope.md R9. -/
def BreaksTheLaw (offered : Nat) (answers : List SinkAnswer) : Prop :=
  ∃ (before later : List SinkAnswer) (n : Nat), answers = before ++ .accepted n :: later
    ∧ progressing before = true ∧ acceptedTotal before < offered ∧ (n = 0 ∨ offered < acceptedTotal before + n)

end Sys2Proof.Machine
end

