-- ==== Sys2Proof/Certificates/Slice0/Obligations.lean ====
section
/-! DEFINITION. The statements about the model for the provers. Each docstring names the rule or the sections of spec/ it
formalises. "D<n>" is an entry of 92_eei_decisions.md: the spec's own choice where its source is silent (log entry 9). -/

open Sys2Proof Sys2Proof.Machine

/-! ## Encoding -/

/-- The words of 95_test_vectors.md E1 to E12 decode as that table says. -/
def Obligations.TestVectorWordsDecode : Prop :=
  decode 0x00000000 = .ok .reset
    ∧ decode 0x100000FD = .ok (.feed 0xFD)
    ∧ decode 0x10000100 = .error .reservedOperandBits
    ∧ decode 0x20000000 = .ok .crcSeed
    ∧ decode 0x20000001 = .error .reservedOperandBits
    ∧ decode 0x3000ABCD = .ok (.crcLoad 0xABCD)
    ∧ decode 0x3001ABCD = .error .reservedOperandBits
    ∧ decode 0x400000FF = .ok (.crcByte 0xFF)
    ∧ decode 0x50FFFFFF = .ok (.crcSalt 0xFFFFFF)
    ∧ decode 0x60000001 = .ok (.lookup 1)
    ∧ decode 0x61000000 = .error .reservedField
    ∧ decode 0x7007FFBE = .ok (.sendHb 7 255 190)
    ∧ decode 0x80000000 = .error .reservedOpcode
    ∧ decode 0xF0000000 = .error .reservedOpcode

/-- Decoding the word of a command gives the command back, for every command and every operand value (30_encoding.md
section 1). -/
def Obligations.DecodeOfEncode : Prop :=
  ∀ i : Instr, decode (encode i) = .ok i

/-- A word that decodes is the word of the command it decodes to: no command has two words, and no bit of a legal word is
dropped (30_encoding.md section 1). -/
def Obligations.EncodeOfDecode : Prop :=
  ∀ (w : CmdWord) (i : Instr), decode w = .ok i → encode i = w

/-- A word decodes to a command of operation n exactly when it has the match of row n of opcode_table.json under that row's
mask; so no word is of two rows. -/
def Obligations.DecodeFollowsTheOpcodeTable : Prop :=
  ∀ (w : CmdWord) (n : Fin 8),
    (∃ i, decode w = .ok i ∧ opNumber i = n.val) ↔ w &&& (opcodeRows[n.val]'n.isLt).2 = (opcodeRows[n.val]'n.isLt).1

/-- R71: every operand is an unsigned slice of the word. -/
def Obligations.OperandsAreSlicesOfTheWord : Prop :=
  ∀ (w : CmdWord) (i : Instr), decode w = .ok i →
    match i with
    | .feed b | .crcByte b => b.toNat = w.toNat % 2 ^ 8
    | .crcLoad v => v.toNat = w.toNat % 2 ^ 16
    | .crcSalt id | .lookup id => id.toNat = w.toNat % 2 ^ 24
    | .sendHb seq sysid compid =>
      seq.toNat = (w >>> 16).toNat % 2 ^ 8 ∧ sysid.toNat = (w >>> 8).toNat % 2 ^ 8 ∧ compid.toNat = w.toNat % 2 ^ 8
    | .reset | .crcSeed => w.toNat % 2 ^ 24 = 0

/-- R73: every word is one of the eight commands or illegal, not both; an illegal word answers ILLEGAL with nothing but the
status and changes no state (the word itself is gone from the host's list). -/
def Obligations.IllegalWordAnswersIllegalAndChangesNothing : Prop :=
  (∀ w : CmdWord, (∃ i, decode w = .ok i) ↔ ¬ IllegalWord w)
    ∧ ∀ (s : State) (w : CmdWord) (ws : List CmdWord),
      s.sending = none → s.cmds = w :: ws → IllegalWord w →
        step s = .next { s with cmds := ws, responses := s.responses ++ [⟨.illegal, none, none, none, none⟩] }

/-- An assembler line with its operands in range stands for the command of its mnemonic and operands, FEEDS and CRC_BUF for one
command per byte in order, and an operand out of its field's range is an assembly error (30_encoding.md section 1, D33).
That FEEDS or CRC_BUF without an operand is an assembly error is the model's choice (log entry 11). -/
def Obligations.AssemblerLinesInRangeOnly : Prop :=
  assemble .reset = some [.reset]
    ∧ assemble .crcSeed = some [.crcSeed]
    ∧ (∀ b : Byte, assemble (.feed b.toNat) = some [.feed b] ∧ assemble (.crcByte b.toNat) = some [.crcByte b])
    ∧ (∀ v : Checksum, assemble (.crcLoad v.toNat) = some [.crcLoad v])
    ∧ (∀ id : MsgId, assemble (.crcSalt id.toNat) = some [.crcSalt id] ∧ assemble (.lookup id.toNat) = some [.lookup id])
    ∧ (∀ seq sysid compid : Byte,
      assemble (.sendHb seq.toNat sysid.toNat compid.toNat) = some [.sendHb seq sysid compid])
    ∧ (∀ bs : List Byte, bs ≠ [] →
      assemble (.feeds (bs.map BitVec.toNat)) = some (bs.map .feed)
        ∧ assemble (.crcBuf (bs.map BitVec.toNat)) = some (bs.map .crcByte))
    ∧ (∀ b : Nat, 0xFF < b → assemble (.feed b) = none ∧ assemble (.crcByte b) = none)
    ∧ (∀ v : Nat, 0xFFFF < v → assemble (.crcLoad v) = none)
    ∧ (∀ id : Nat, 0xFFFFFF < id → assemble (.crcSalt id) = none ∧ assemble (.lookup id) = none)
    ∧ (∀ seq sysid compid : Nat, 0xFF < seq ∨ 0xFF < sysid ∨ 0xFF < compid →
      assemble (.sendHb seq sysid compid) = none)
    ∧ (∀ (bs : List Nat) (b : Nat), b ∈ bs → 0xFF < b → assemble (.feeds bs) = none ∧ assemble (.crcBuf bs) = none)
    ∧ assemble (.feeds []) = none ∧ assemble (.crcBuf []) = none

/-! ## The step -/

/-- When no write protocol is open, a step takes the next word the host has issued and runs the command it decodes to, and with
no word issued the block holds its state. The list of issued words is the model's choice (log entry 4). -/
def Obligations.StepRunsTheIssuedCommand : Prop :=
  ∀ s : State, s.sending = none →
    (∀ (w : CmdWord) (ws : List CmdWord) (i : Instr),
      s.cmds = w :: ws → decode w = .ok i → step s = exec i { s with cmds := ws })
    ∧ (s.cmds = [] → step s = .next s)

/-- A word stored by withFetchWord is the one the very next step runs (log entries 4 and 12). -/
def Obligations.FetchWordIsRunNext : Prop :=
  ∀ (s : State) (w : CmdWord) (i : Instr), decode w = .ok i →
    decodeTableWord 32 w.toNat = some i
      ∧ step (s.withFetchWord 32 w.toNat) = exec i { s with sending := none }

/-- While a write protocol is open no command is taken and no block state changes; the response comes when it ends and not
before (20_memory.md section 3, D35; the open transfer is the model's form, log entry 6). -/
def Obligations.OpenTransferTakesNoCommand : Prop :=
  ∀ (s t : State) (rest : List Byte), s.sending = some rest → step s = .next t →
    t.cmds = s.cmds ∧ t.cfg = s.cfg ∧ t.parser = s.parser ∧ t.crcAcc = s.crcAcc
      ∧ ((∃ r, t.sending = some r ∧ t.responses = s.responses)
        ∨ (t.sending = none ∧ ∃ st, (st = .ok ∨ st = .sendFail)
          ∧ t.responses = s.responses ++ [⟨st, none, none, none, none⟩]))

/-! ## Checksum engine -/

/-- The checksum step is the bitwise reflected CRC with polynomial 0x8408, for every checksum and byte (40_checksum.md section 1,
where the spec marks it as its own derivation). -/
def Obligations.CrcStepIsTheReflectedCrc : Prop :=
  ∀ (c : Checksum) (b : Byte), crcStep c b = crcBitwise c b

/-- Folding in two pieces is folding the whole (40_checksum.md section 1, derived there from the fold). -/
def Obligations.CrcFoldIsIncremental : Prop :=
  ∀ (c : Checksum) (xs ys : List Byte), crcFold (crcFold c xs) ys = crcFold c (xs ++ ys)

/-- The checksum step is linear over GF(2) in the pair of its arguments (40_checksum.md section 3, derived there). -/
def Obligations.CrcStepIsLinear : Prop :=
  ∀ (c1 c2 : Checksum) (b1 b2 : Byte), crcStep (c1 ^^^ c2) (b1 ^^^ b2) = crcStep c1 b1 ^^^ crcStep c2 b2

/-- Two different last bytes never give the same checksum, so a frame checksummed with one salt fails under every other
(42_registry.md section 1: the salt binds a checksum to a message definition). -/
def Obligations.DifferentSaltsGiveDifferentChecksums : Prop :=
  ∀ (c : Checksum) (x y : Byte), crcStep c x = crcStep c y → x = y

/-- The values of 40_checksum.md section 3 and 95_test_vectors.md K1 to K3, K6 to K9; the rejected readings are not produced. -/
def Obligations.CrcKnownVectors : Prop :=
  crcStep 0xFFFF 0x00 = 0x0F87 ∧ crcStep 0xFFFF 0x00 ≠ 0x7777
    ∧ crcStep 0xFFFF 0xFF = 0x00FF ∧ crcStep 0xFFFF 0x01 = 0x1E0E ∧ crcStep 0xFFFF 0x32 = 0x1D16
    ∧ crcStep 0x0000 0x00 = 0x0000 ∧ crcStep 0x0000 0x01 = 0x1189 ∧ crcStep 0x0000 0xFF = 0x0F78
    ∧ crcStep 0x1234 0x56 = 0x4006 ∧ crcStep 0x62C4 0x32 = 0x92DB
    ∧ crcFold 0xFFFF [0x01, 0x02, 0x03] = 0x62C4
    ∧ crcFold 0xFFFF [0x31, 0x32, 0x33, 0x34, 0x35, 0x36, 0x37, 0x38, 0x39] = 0x6F91
    ∧ crcFold 0xFFFF [] = 0xFFFF ∧ crcFold 0x0000 [0, 0, 0, 0, 0] = 0x0000

/-- R104, with its encoding (D3) and the register it writes (D8): the accumulator becomes the seed, the response carries it, and
nothing else changes; any other word of operation 2 is illegal. -/
def Obligations.CrcSeedLoadsTheSeed : Prop :=
  decode 0x20000000 = .ok .crcSeed
    ∧ (∀ w : CmdWord, (w >>> 28).toNat = 2 → w ≠ 0x20000000 → ∃ e, decode w = .error e)
    ∧ ∀ s : State, exec .crcSeed s
      = .next { s with crcAcc := 0xFFFF, responses := s.responses ++ [⟨.ok, none, some 0xFFFF, none, none⟩] }

/-- R105, with its encoding (D3) and the register it writes (D8): the accumulator becomes v, and nothing else changes; a word of
operation 3 with a bit of 27:16 set is illegal. -/
def Obligations.CrcLoadLoadsItsOperand : Prop :=
  (∀ v : Checksum, decode (0x30000000 ||| v.setWidth 32) = .ok (.crcLoad v))
    ∧ (∀ w : CmdWord, (w >>> 28).toNat = 3 → (w >>> 16).toNat % 2 ^ 12 ≠ 0 → ∃ e, decode w = .error e)
    ∧ (∀ (v : Checksum) (s : State), exec (.crcLoad v) s
      = .next { s with crcAcc := v, responses := s.responses ++ [⟨.ok, none, some v, none, none⟩] })
    ∧ ∀ s : State, exec (.crcLoad 0xFFFF) s = exec .crcSeed s

/-- R106, with its encoding (D3) and the register it writes (D8): the accumulator folds b by the checksum step, and nothing else
changes; a word of operation 4 with a bit of 27:8 set is illegal; a byte equal to the low byte of the accumulator
leaves its high byte; a sequence of CRC_BYTE is one fold over the sequence. -/
def Obligations.CrcByteFoldsItsOperand : Prop :=
  (∀ b : Byte, decode (0x40000000 ||| b.setWidth 32) = .ok (.crcByte b))
    ∧ (∀ w : CmdWord, (w >>> 28).toNat = 4 → (w >>> 8).toNat % 2 ^ 20 ≠ 0 → ∃ e, decode w = .error e)
    ∧ (∀ (b : Byte) (s : State), exec (.crcByte b) s
      = .next { s with
          crcAcc := crcStep s.crcAcc b
          responses := s.responses ++ [⟨.ok, none, some (crcStep s.crcAcc b), none, none⟩] })
    ∧ (∀ c : Checksum, crcStep c (c.setWidth 8) = c >>> 8)
    ∧ ∀ (bs : List Byte) (s : State), ∃ t, runCommands (bs.map .crcByte) s = .next t
      ∧ t.crcAcc = crcFold s.crcAcc bs ∧ t.responses.length = s.responses.length + bs.length
      ∧ t = { s with crcAcc := t.crcAcc, responses := t.responses }

/-! ## Registry -/

/-- R173, with its encoding (D3) and its response (D5): found and the salt of the identifier, or found = 0 and no salt; no state
changes. -/
def Obligations.LookupAnswersTheRegistry : Prop :=
  (∀ id : MsgId, decode (0x60000000 ||| id.setWidth 32) = .ok (.lookup id))
    ∧ (∀ w : CmdWord, (w >>> 28).toNat = 6 → (w >>> 24).toNat % 2 ^ 4 ≠ 0 → ∃ e, decode w = .error e)
    ∧ (∀ (id : MsgId) (x : Byte) (s : State), s.cfg.registry.lookup id = some x → exec (.lookup id) s
      = .next { s with responses := s.responses ++ [⟨.ok, none, none, some true, some x⟩] })
    ∧ ∀ (id : MsgId) (s : State), s.cfg.registry.lookup id = none → exec (.lookup id) s
      = .next { s with responses := s.responses ++ [⟨.ok, none, none, some false, none⟩] }

/-- R174, with its encoding (D3) and the register it writes (D8): the salt of a registered identifier is folded into the
accumulator, an unregistered one leaves it; nothing else changes; with found = 1 the accumulator is that of CRC_BYTE
of the salt. -/
def Obligations.CrcSaltFoldsARegisteredSalt : Prop :=
  (∀ id : MsgId, decode (0x50000000 ||| id.setWidth 32) = .ok (.crcSalt id))
    ∧ (∀ w : CmdWord, (w >>> 28).toNat = 5 → (w >>> 24).toNat % 2 ^ 4 ≠ 0 → ∃ e, decode w = .error e)
    ∧ (∀ (id : MsgId) (x : Byte) (s : State), s.cfg.registry.lookup id = some x → exec (.crcSalt id) s
      = .next { s with
          crcAcc := crcStep s.crcAcc x
          responses := s.responses ++ [⟨.ok, none, some (crcStep s.crcAcc x), some true, some x⟩] })
    ∧ (∀ (id : MsgId) (s : State), s.cfg.registry.lookup id = none → exec (.crcSalt id) s
      = .next { s with responses := s.responses ++ [⟨.ok, none, some s.crcAcc, some false, none⟩] })
    ∧ ∀ (id : MsgId) (x : Byte) (s t u : State), s.cfg.registry.lookup id = some x →
      exec (.crcSalt id) s = .next t → exec (.crcByte x) s = .next u → t.crcAcc = u.crcAcc

/-! ## Parser: the two commands -/

/-- R120: FEED b performs one parse_step and answers OK with its message, whatever the byte, the phase and the state; no other
part of the state changes; a word of operation 1 with a bit of 27:8 set is illegal. -/
def Obligations.FeedParsesOneByte : Prop :=
  (∀ b : Byte, decode (0x10000000 ||| b.setWidth 32) = .ok (.feed b))
    ∧ (∀ w : CmdWord, (w >>> 28).toNat = 1 → (w >>> 8).toNat % 2 ^ 20 ≠ 0 → ∃ e, decode w = .error e)
    ∧ ∀ (b : Byte) (s : State), exec (.feed b) s
      = .next { s with
          parser := (parseStep s.cfg s.parser b).1
          responses := s.responses ++ [⟨.ok, (parseStep s.cfg s.parser b).2, none, none, none⟩] }

/-- No sequence of bytes makes FEED report an error: the run goes through and every answer has status OK, in every state
(41_parser.md section 4). -/
def Obligations.FeedsNeverReportAnError : Prop :=
  ∀ (bs : List Byte) (s : State), ∃ (t : State) (ms : List (Option Message)),
    runCommands (bs.map .feed) s = .next t
      ∧ ms.length = bs.length
      ∧ t = { s with parser := t.parser, responses := s.responses ++ ms.map feedResponse }

/-- R122 (RESET does not write the accumulator: D29): every parser field gets its reset value, nothing else changes, and a parser
that meets the invariant and is in WaitSync stays as it is; every other word of operation 0 is illegal. -/
def Obligations.ResetReinitializesTheParser : Prop :=
  decode 0x00000000 = .ok .reset
    ∧ (∀ w : CmdWord, (w >>> 28).toNat = 0 → w ≠ 0 → ∃ e, decode w = .error e)
    ∧ (∀ s : State, exec .reset s
      = .next { s with
          parser := ⟨.waitSync, false, 5, Vector.replicate 9 0, 0, 0, List.replicate s.cfg.payloadCap.toNat 0, 0, 0, false, 0, 0⟩
          responses := s.responses ++ [⟨.ok, none, none, none, none⟩] })
    ∧ ∀ s t : State, s.parser.Inv s.cfg → s.parser.phase = .waitSync → exec .reset s = .next t → t.parser = s.parser

/-! ## Parser: the phases -/

/-- R125 and R126: in WaitSync a sync byte selects the version and opens a header, any other byte changes nothing; each
answers None. -/
def Obligations.WaitSyncFindsTheSyncByte : Prop :=
  ∀ (s : State) (b : Byte), s.parser.phase = .waitSync →
    exec (.feed b) s = .next { s with
      parser :=
        if b = 0xFD then { s.parser with v2 := true, hdrLen := 9, hdrIdx := 0, phase := .header }
        else if b = 0xFE then { s.parser with v2 := false, hdrLen := 5, hdrIdx := 0, phase := .header }
        else s.parser
      responses := s.responses ++ [feedResponse none] }

/-- R128: a header byte is stored at the cursor and the cursor moves on; before the header is complete nothing else happens. -/
def Obligations.HeaderByteIsStoredAtTheCursor : Prop :=
  ∀ (s : State) (b : Byte), s.parser.Inv s.cfg → s.parser.phase = .header →
    s.parser.hdrIdx + 1 ≠ s.parser.hdrLen → ∃ (hdr : Vector Byte 9),
      hdr[s.parser.hdrIdx.toNat]? = some b
        ∧ (∀ i : Fin 9, i.val ≠ s.parser.hdrIdx.toNat → hdr[i] = s.parser.hdr[i])
        ∧ exec (.feed b) s = .next { s with
          parser := { s.parser with hdr := hdr, hdrIdx := s.parser.hdrIdx + 1 }
          responses := s.responses ++ [feedResponse none] }

/-- R129: a header that completes with a length above PAYLOAD_CAP makes the parser resynchronize, with no error; with
PAYLOAD_CAP = 255 no length is above it. -/
def Obligations.OversizeHeaderAborts : Prop :=
  (∀ (s : State) (b : Byte), s.parser.Inv s.cfg → s.parser.phase = .header →
    s.parser.hdrIdx + 1 = s.parser.hdrLen → s.cfg.payloadCap.toNat < s.parser.hdr[0].toNat →
      exec (.feed b) s = .next { s with
        parser := Parser.reset s.cfg.payloadCap
        responses := s.responses ++ [feedResponse none] })
    ∧ ∀ (cfg : Config) (p : Parser), cfg.payloadCap = 255 → ¬ cfg.payloadCap.toNat < p.hdr[0].toNat

/-- R130 and R131: a header that completes within the capacity sets the declared length, the signed flag from bit 0 of incompat in
v2 and to 0 in v1 (D20), the payload cursor to 0 (D18), and goes to Payload, or straight to ChecksumLow when the length
is 0. -/
def Obligations.HeaderCompletionReadsLengthAndFlag : Prop :=
  ∀ (s : State) (b : Byte), s.parser.Inv s.cfg → s.parser.phase = .header →
    s.parser.hdrIdx + 1 = s.parser.hdrLen → s.parser.hdr[0].toNat ≤ s.cfg.payloadCap.toNat →
      ∃ t, exec (.feed b) s = .next t
        ∧ t.parser.payLen = s.parser.hdr[0]
        ∧ (s.parser.v2 = true → t.parser.incompat = s.parser.hdr[1] ∧ t.parser.signed = s.parser.hdr[1].getLsbD 0)
        ∧ (s.parser.v2 = false → t.parser.incompat = s.parser.incompat ∧ t.parser.signed = false)
        ∧ t.parser.payIdx = 0
        ∧ t.parser.phase = (if 0 < s.parser.hdr[0].toNat then .payload else .checksumLow)
        ∧ t.parser.hdr[s.parser.hdrIdx.toNat]? = some b
        ∧ (∀ i : Fin 9, i.val ≠ s.parser.hdrIdx.toNat → t.parser.hdr[i] = s.parser.hdr[i])
        ∧ t.parser.hdrIdx = s.parser.hdrLen
        ∧ t.parser.v2 = s.parser.v2 ∧ t.parser.hdrLen = s.parser.hdrLen ∧ t.parser.pay = s.parser.pay
        ∧ t.parser.sigCnt = s.parser.sigCnt ∧ t.parser.rxCk = s.parser.rxCk
        ∧ t = { s with parser := t.parser, responses := s.responses ++ [feedResponse none] }

/-- R133: a payload byte is stored at the cursor, inside the buffer, and the cursor moves on; with the declared number of bytes
held the phase is ChecksumLow. -/
def Obligations.PayloadByteIsStoredAtTheCursor : Prop :=
  ∀ (s : State) (b : Byte), s.parser.Inv s.cfg → s.parser.phase = .payload →
    s.parser.payIdx.toNat < s.cfg.payloadCap.toNat ∧ ∃ (pay : List Byte),
      pay.length = s.cfg.payloadCap.toNat
        ∧ pay[s.parser.payIdx.toNat]? = some b
        ∧ (∀ i : Nat, i ≠ s.parser.payIdx.toNat → pay[i]? = s.parser.pay[i]?)
        ∧ exec (.feed b) s = .next { s with
          parser := { s.parser with
            pay := pay
            payIdx := s.parser.payIdx + 1
            phase := if s.parser.payIdx + 1 = s.parser.payLen then .checksumLow else .payload }
          responses := s.responses ++ [feedResponse none] }

/-- R134: ChecksumLow writes the whole received checksum, its low byte with b and its high byte with 0 (D10). -/
def Obligations.ChecksumLowWritesTheWholeRegister : Prop :=
  ∀ (s : State) (b : Byte), s.parser.phase = .checksumLow → ∃ ck : Checksum,
    ck.extractLsb' 0 8 = b ∧ ck.extractLsb' 8 8 = 0
      ∧ exec (.feed b) s = .next { s with
        parser := { s.parser with rxCk := ck, phase := .checksumHigh }
        responses := s.responses ++ [feedResponse none] }

/-- R135: in ChecksumHigh of a signed v2 frame the received checksum gets its high byte and the trailer is counted from 0; of any
other frame the FEED answers the verdict and the parser is back in WaitSync. The low byte is the one ChecksumLow stored. -/
def Obligations.ChecksumHighCompletesTheChecksum : Prop :=
  ∀ (s : State) (b : Byte), s.parser.Inv s.cfg → s.parser.phase = .checksumHigh →
    (s.parser.v2 = true → s.parser.signed = true → ∃ ck : Checksum,
      ck.extractLsb' 0 8 = s.parser.rxCk.extractLsb' 0 8 ∧ ck.extractLsb' 8 8 = b
        ∧ exec (.feed b) s = .next { s with
          parser := { s.parser with rxCk := ck, sigCnt := 0, phase := .signature }
          responses := s.responses ++ [feedResponse none] })
    ∧ (¬ (s.parser.v2 = true ∧ s.parser.signed = true) → ∃ ck : Checksum,
      ck.extractLsb' 0 8 = s.parser.rxCk.extractLsb' 0 8 ∧ ck.extractLsb' 8 8 = b
        ∧ exec (.feed b) s = .next { s with
          parser := Parser.reset s.cfg.payloadCap
          responses := s.responses ++ [feedResponse (finalize s.cfg { s.parser with rxCk := ck }).2] })

/-- R136: a signature byte is counted and neither examined nor stored; the 13th gives the verdict and WaitSync. -/
def Obligations.SignatureBytesAreOnlyCounted : Prop :=
  ∀ (s : State) (b : Byte), s.parser.phase = .signature →
    (s.parser.sigCnt + 1 ≠ 13 → exec (.feed b) s = .next { s with
      parser := { s.parser with sigCnt := s.parser.sigCnt + 1 }
      responses := s.responses ++ [feedResponse none] })
    ∧ (s.parser.sigCnt + 1 = 13 → exec (.feed b) s = .next { s with
      parser := Parser.reset s.cfg.payloadCap
      responses := s.responses ++ [feedResponse (finalize s.cfg s.parser).2] })

/-- R137 and R138: finalization resynchronizes, and yields the message of the frame exactly when its identifier is registered and
the checksum recomputed over the header, the payload and one salt byte is the received one; the identifier of a v1
frame is zero-extended (D21) and the payload has the declared length (D19). -/
def Obligations.FinalizeAcceptsExactlyRegisteredMatches : Prop :=
  ∀ (cfg : Config) (p : Parser),
    (finalize cfg p).1 = Parser.reset cfg.payloadCap
      ∧ ∀ (sysid compid : Byte) (msgid : MsgId),
        (p.v2 = true → sysid = p.hdr[4] ∧ compid = p.hdr[5]
          ∧ msgid.toNat = p.hdr[6].toNat + 2 ^ 8 * p.hdr[7].toNat + 2 ^ 16 * p.hdr[8].toNat) →
        (p.v2 = false → sysid = p.hdr[2] ∧ compid = p.hdr[3] ∧ msgid.toNat = p.hdr[4].toNat) →
        ∀ m : Message, (finalize cfg p).2 = some m ↔
          m = ⟨msgid, sysid, compid, p.payLen, p.pay.take p.payLen.toNat⟩
            ∧ ∃ salt, cfg.registry.lookup msgid = some salt
              ∧ (p.hdr.toList.take p.hdrLen.toNat ++ p.pay.take p.payLen.toNat ++ [salt]).foldl crcStep 0xFFFF = p.rxCk

/-- R123: the transitions a FEED can make, each with its condition; RESET goes to WaitSync from every phase. -/
def Obligations.PhaseGraph : Prop :=
  (∀ s : State, ∃ t, exec .reset s = .next t ∧ t.parser.phase = .waitSync)
    ∧ ∀ (s : State) (b : Byte), s.parser.Inv s.cfg → ∃ t, exec (.feed b) s = .next t ∧
    match s.parser.phase with
    | .waitSync => t.parser.phase = if b = 0xFD ∨ b = 0xFE then .header else .waitSync
    | .header => t.parser.phase =
        if s.parser.hdrIdx.toNat + 1 < s.parser.hdrLen.toNat then .header
        else if s.cfg.payloadCap.toNat < s.parser.hdr[0].toNat then .waitSync
        else if 0 < s.parser.hdr[0].toNat then .payload else .checksumLow
    | .payload => t.parser.phase =
        if s.parser.payIdx.toNat + 1 < s.parser.payLen.toNat then .payload else .checksumLow
    | .checksumLow => t.parser.phase = .checksumHigh
    | .checksumHigh => t.parser.phase = if s.parser.v2 ∧ s.parser.signed then .signature else .waitSync
    | .signature => t.parser.phase = if s.parser.sigCnt.toNat + 1 < 13 then .signature else .waitSync

/-- R121: a FEED answers one msg, which is a message exactly when its byte completes a frame that passes finalization, and then
is the message of that frame; the parser is then at its reset values. -/
def Obligations.MessageOnlyFromACompletedFrame : Prop :=
  ∀ (s : State) (b : Byte), s.parser.Inv s.cfg → ∃ (t : State) (msg : Option Message),
    exec (.feed b) s = .next t
      ∧ t.responses = s.responses ++ [feedResponse msg]
      ∧ (∀ m : Message, msg = some m ↔
        (s.parser.phase = .checksumHigh ∧ ¬ (s.parser.v2 = true ∧ s.parser.signed = true)
            ∧ (finalize s.cfg (withChecksumHigh s.parser b)).2 = some m)
          ∨ (s.parser.phase = .signature ∧ s.parser.sigCnt = 12 ∧ (finalize s.cfg s.parser).2 = some m))
      ∧ (msg ≠ none → t.parser = Parser.reset s.cfg.payloadCap)

/-- Mid-frame every byte, a sync value included, is the field the phase expects: a header byte goes into the header buffer, a
payload byte into the payload buffer, a checksum byte into the received checksum, and a signature byte is counted. The
parser goes back to its reset values exactly at the three ends of a frame, and otherwise stays in the frame with its
version (41_parser.md section 4). -/
def Obligations.SyncBytesInsideAFrameAreData : Prop :=
  ∀ (s : State) (b : Byte), s.parser.Inv s.cfg → s.parser.phase ≠ .waitSync → ∃ t, exec (.feed b) s = .next t
    ∧ (s.parser.AtFrameEnd s.cfg → t.parser = Parser.reset s.cfg.payloadCap)
    ∧ (s.parser.phase = .checksumHigh → s.parser.AtFrameEnd s.cfg → ∃ ck : Checksum,
      ck.extractLsb' 0 8 = s.parser.rxCk.extractLsb' 0 8 ∧ ck.extractLsb' 8 8 = b
        ∧ t.responses = s.responses ++ [feedResponse (finalize s.cfg { s.parser with rxCk := ck }).2])
    ∧ (¬ s.parser.AtFrameEnd s.cfg →
      t.responses = s.responses ++ [feedResponse none]
      ∧ t.parser.v2 = s.parser.v2 ∧ t.parser.hdrLen = s.parser.hdrLen
      ∧ (s.parser.phase ≠ .header → t.parser.hdr = s.parser.hdr ∧ t.parser.hdrIdx = s.parser.hdrIdx
        ∧ t.parser.payLen = s.parser.payLen ∧ t.parser.signed = s.parser.signed ∧ t.parser.incompat = s.parser.incompat)
      ∧ (s.parser.phase ≠ .payload → t.parser.pay = s.parser.pay)
      ∧ match s.parser.phase with
        | .waitSync => True
        | .header => t.parser.hdr[s.parser.hdrIdx.toNat]? = some b ∧ t.parser.hdrIdx = s.parser.hdrIdx + 1
          ∧ (∀ i : Fin 9, i.val ≠ s.parser.hdrIdx.toNat → t.parser.hdr[i] = s.parser.hdr[i])
          ∧ (t.parser.phase = .header ∨ t.parser.phase = .payload ∨ t.parser.phase = .checksumLow)
        | .payload => t.parser.pay[s.parser.payIdx.toNat]? = some b ∧ t.parser.payIdx = s.parser.payIdx + 1
          ∧ (∀ i : Nat, i ≠ s.parser.payIdx.toNat → t.parser.pay[i]? = s.parser.pay[i]?)
          ∧ (t.parser.phase = .payload ∨ t.parser.phase = .checksumLow)
        | .checksumLow => t.parser.rxCk.extractLsb' 0 8 = b ∧ t.parser.phase = .checksumHigh
        | .checksumHigh => t.parser.rxCk.extractLsb' 0 8 = s.parser.rxCk.extractLsb' 0 8
          ∧ t.parser.rxCk.extractLsb' 8 8 = b ∧ t.parser.phase = .signature
        | .signature => t.parser = { s.parser with sigCnt := s.parser.sigCnt + 1 })

/-- The flag v2 is written only by a sync byte in WaitSync or by a resynchronization, signed only by a header that completes or by a
resynchronization, and no command but FEED and RESET writes either (10_state.md section 2). -/
def Obligations.FlagsAreWrittenOnlyByTheirRules : Prop :=
  ∀ (i : Instr) (s t : State), s.parser.Inv s.cfg → exec i s = .next t →
    (t.parser.v2 ≠ s.parser.v2 →
      t.parser = Parser.reset s.cfg.payloadCap
        ∨ (s.parser.phase = .waitSync ∧ (i = .feed 0xFD ∧ t.parser.v2 = true ∨ i = .feed 0xFE ∧ t.parser.v2 = false)))
    ∧ (t.parser.signed ≠ s.parser.signed →
      t.parser = Parser.reset s.cfg.payloadCap
        ∨ (s.parser.phase = .header ∧ s.parser.hdrIdx + 1 = s.parser.hdrLen ∧ (∃ b, i = .feed b)
          ∧ t.parser.signed = (s.parser.v2 && s.parser.hdr[1].getLsbD 0)))
    ∧ ((∀ b, i ≠ .feed b) → i ≠ .reset → t.parser.v2 = s.parser.v2 ∧ t.parser.signed = s.parser.signed)

/-! ## Parser: invariants and whole frames -/

/-- The machine's invariant holds at power-on under every configuration, and at reset (10_state.md section 4). -/
def Obligations.PowerOnMeetsTheInvariant : Prop :=
  (∀ cfg : Config, (State.powerOn cfg).Inv) ∧ State.reset.Inv

/-- Every step keeps the machine's invariant: the phase conditions of 10_state.md section 4 (which the spec marks as its own
derivation), and that an open write protocol offers the end of one heartbeat frame. -/
def Obligations.StepKeepsTheInvariant : Prop :=
  ∀ s t : State, s.Inv → step s = .next t → t.Inv

/-- In every state a run reaches, the cursors are inside the buffers, so that every buffer write is in range (10_state.md section
4, where the spec marks it as its own derivation). -/
def Obligations.ReachableBufferWritesAreInRange : Prop :=
  ∀ (cfg : Config) (s : State), Reachable cfg s →
    s.cfg = cfg
      ∧ s.parser.hdrIdx.toNat ≤ 9
      ∧ s.parser.pay.length = cfg.payloadCap.toNat
      ∧ (s.parser.phase = .header → s.parser.hdrIdx.toNat < 9)
      ∧ (s.parser.phase = .payload → s.parser.payIdx.toNat < s.parser.pay.length)
      ∧ (s.parser.phase ≠ .waitSync → s.parser.phase ≠ .header →
        s.parser.payIdx.toNat ≤ s.parser.payLen.toNat ∧ s.parser.payLen.toNat ≤ cfg.payloadCap.toNat)

/-- No response, no byte to the sink and no accumulator value depends on what the parser's fields other than the phase hold at
power-on (10_state.md section 4, derived there; D9). -/
def Obligations.NoResponseReadsAResetValue : Prop :=
  ∀ (cfg : Config) (p : Parser) (ws : List CmdWord) (as : List SinkAnswer) (n : Nat) (t : State),
    p.phase = .waitSync → p.pay.length = cfg.payloadCap.toNat →
    runSteps n { State.powerOn cfg with parser := p, cmds := ws, sinkAnswers := as } = .next t →
      ∃ u, runSteps n { State.powerOn cfg with cmds := ws, sinkAnswers := as } = .next u
        ∧ u.responses = t.responses ∧ u.sinkBytes = t.sinkBytes ∧ u.crcAcc = t.crcAcc
        ∧ u.cmds = t.cmds ∧ u.parser.phase = t.parser.phase

/-- From WaitSync a v1 frame with L ≤ PAYLOAD_CAP payload bytes takes 8+L FEEDs: all but the last answer None, the last answers
the message exactly when the identifier is registered and the checksum is that of 30_encoding.md section 2, and the
parser is at its reset values (41_parser.md section 4, derived there). -/
def Obligations.V1FrameYieldsItsVerdict : Prop :=
  ∀ (s : State) (seq sysid compid msgid : Byte) (payload : List Byte) (ck : Checksum),
    s.parser.phase = .waitSync → s.parser.pay.length = s.cfg.payloadCap.toNat →
    payload.length ≤ s.cfg.payloadCap.toNat →
      runCommands (([0xFE] ++ v1Covered seq sysid compid msgid payload ++ checksumField ck).map .feed) s
        = .next { s with
          parser := Parser.reset s.cfg.payloadCap
          responses := s.responses ++ List.replicate (7 + payload.length) (feedResponse none) ++ [feedResponse
            (if coverageChecksum s.cfg (msgid.setWidth 24) (v1Covered seq sysid compid msgid payload) = some ck
              then some ⟨msgid.setWidth 24, sysid, compid, BitVec.ofNat 8 payload.length, payload⟩ else none)] }

/-- From WaitSync an unsigned v2 frame with L ≤ PAYLOAD_CAP payload bytes takes 12+L FEEDs, whatever bits 7..1 of incompat and the
compat byte hold (D20): all but the last answer None, the last answers the verdict (41_parser.md section 4, derived
there). -/
def Obligations.UnsignedV2FrameYieldsItsVerdict : Prop :=
  ∀ (s : State) (incompat compat seq sysid compid : Byte) (msgid : MsgId) (payload : List Byte) (ck : Checksum),
    s.parser.phase = .waitSync → s.parser.pay.length = s.cfg.payloadCap.toNat →
    payload.length ≤ s.cfg.payloadCap.toNat → incompat.getLsbD 0 = false →
      runCommands (([0xFD] ++ v2Covered incompat compat seq sysid compid msgid payload ++ checksumField ck).map .feed) s
        = .next { s with
          parser := Parser.reset s.cfg.payloadCap
          responses := s.responses ++ List.replicate (11 + payload.length) (feedResponse none) ++ [feedResponse
            (if coverageChecksum s.cfg msgid (v2Covered incompat compat seq sysid compid msgid payload) = some ck
              then some ⟨msgid, sysid, compid, BitVec.ofNat 8 payload.length, payload⟩ else none)] }

/-- From WaitSync a signed v2 frame with L ≤ PAYLOAD_CAP payload bytes takes 25+L FEEDs: its 13 trailer bytes are consumed
whatever they hold, also when the checksum is wrong, and the last one answers the verdict (41_parser.md section 4,
derived there). -/
def Obligations.SignedV2FrameSkipsItsTrailer : Prop :=
  ∀ (s : State) (incompat compat seq sysid compid : Byte) (msgid : MsgId) (payload : List Byte) (ck : Checksum)
    (trailer : List Byte),
    s.parser.phase = .waitSync → s.parser.pay.length = s.cfg.payloadCap.toNat →
    payload.length ≤ s.cfg.payloadCap.toNat → incompat.getLsbD 0 = true → trailer.length = 13 →
      runCommands (([0xFD] ++ v2Covered incompat compat seq sysid compid msgid payload ++ checksumField ck
          ++ trailer).map .feed) s
        = .next { s with
          parser := Parser.reset s.cfg.payloadCap
          responses := s.responses ++ List.replicate (24 + payload.length) (feedResponse none) ++ [feedResponse
            (if coverageChecksum s.cfg msgid (v2Covered incompat compat seq sysid compid msgid payload) = some ck
              then some ⟨msgid, sysid, compid, BitVec.ofNat 8 payload.length, payload⟩ else none)] }

/-- An oversize frame returns to WaitSync after its sync byte and its whole header, 6 FEEDs in v1 and 10 in v2, a sync value in
that header included, with every answer None (41_parser.md section 4, derived there). -/
def Obligations.OversizeFrameConsumesItsWholeHeader : Prop :=
  ∀ (s : State) (len : Byte) (more : List Byte),
    s.parser.phase = .waitSync → s.cfg.payloadCap.toNat < len.toNat →
      (more.length = 4 → runCommands ((0xFE :: len :: more).map .feed) s
        = .next { s with
          parser := Parser.reset s.cfg.payloadCap, responses := s.responses ++ List.replicate 6 (feedResponse none) })
      ∧ (more.length = 8 → runCommands ((0xFD :: len :: more).map .feed) s
        = .next { s with
          parser := Parser.reset s.cfg.payloadCap, responses := s.responses ++ List.replicate 10 (feedResponse none) })

/-! ## Encoder -/

/-- R191 and R192: the 21 bytes of the heartbeat frame at their offsets; incompat and compat are 0x00 (D15, log entry 9); the
checksum covers offsets 1 to 18 and then the salt of HB_MSGID, and stands little-endian at the end. -/
def Obligations.HeartbeatFrameLayout : Prop :=
  ∀ (cfg : Config) (seq sysid compid salt : Byte), cfg.registry.lookup cfg.hbMsgid = some salt →
    ∃ ck : Checksum,
      hbFrame cfg seq sysid compid
        = [0xFD, 9, 0x00, 0x00, seq, sysid, compid, cfg.hbMsgid.extractLsb' 0 8, cfg.hbMsgid.extractLsb' 8 8,
            cfg.hbMsgid.extractLsb' 16 8] ++ cfg.hbPayload.toList ++ [ck.extractLsb' 0 8, ck.extractLsb' 8 8]
        ∧ (hbFrame cfg seq sysid compid).length = 21
        ∧ ck = crcStep (crcFold 0xFFFF (((hbFrame cfg seq sysid compid).drop 1).take 18)) salt

/-- A sink that goes on to accept the whole frame, interrupting as often as it likes and taking as few bytes at a time as it
likes, gets the 21 bytes in order, and SEND_HB answers OK; each attempt offers the frame without the bytes accepted
before it; the block's own state is as before and the answers after the last one used are left (43_encoder.md section
3, D16, D17). -/
def Obligations.SendHbDeliversTheWholeFrame : Prop :=
  ∀ (s : State) (seq sysid compid : Byte) (answers later : List SinkAnswer) (n : Nat),
    progressing answers = true → 1 ≤ n → acceptedTotal answers + n = 21 →
    s.sinkAnswers = answers ++ .accepted n :: later →
      exec (.sendHb seq sysid compid) s = .next { s with
        sinkAnswers := later
        sinkOffers := s.sinkOffers ++ remaindersOffered (hbFrame s.cfg seq sysid compid) answers (answers.length + 1)
        sinkBytes := s.sinkBytes ++ hbFrame s.cfg seq sysid compid
        sending := none
        responses := s.responses ++ [⟨.ok, none, none, none, none⟩] }

/-- R196: when the sink answers Fault before the whole frame is accepted, SEND_HB answers SEND_FAIL and not how many bytes were
accepted, those stay delivered, no more are sent or offered, and the block's own state is as before; a retry sends the
whole frame from offset 0 after them. -/
def Obligations.SendHbFaultKeepsThePrefix : Prop :=
  ∀ (s : State) (seq sysid compid : Byte) (answers later : List SinkAnswer),
    progressing answers = true → acceptedTotal answers < 21 →
    s.sinkAnswers = answers ++ .fault :: later →
      ∃ t : State, exec (.sendHb seq sysid compid) s = .next t
        ∧ t = { s with
          sinkAnswers := later
          sinkOffers := s.sinkOffers ++ remaindersOffered (hbFrame s.cfg seq sysid compid) answers (answers.length + 1)
          sinkBytes := s.sinkBytes ++ (hbFrame s.cfg seq sysid compid).take (acceptedTotal answers)
          sending := none
          responses := s.responses ++ [⟨.sendFail, none, none, none, none⟩] }
        ∧ ∀ rest, later = .accepted 21 :: rest → ∃ u, exec (.sendHb seq sysid compid) t = .next u
          ∧ u.sinkBytes = t.sinkBytes ++ hbFrame s.cfg seq sysid compid

/-- While the sink has given no final answer SEND_HB has not completed: no response is given, and the rest of the frame is what
the next attempt offers (70_reset_and_hazards.md section 2; the open transfer is the model's form, log entry 6). -/
def Obligations.SendHbWithoutAFinalAnswerStaysOpen : Prop :=
  ∀ (s : State) (seq sysid compid : Byte), progressing s.sinkAnswers = true → acceptedTotal s.sinkAnswers < 21 →
    exec (.sendHb seq sysid compid) s = .next { s with
      sinkAnswers := []
      sinkOffers := s.sinkOffers
        ++ remaindersOffered (hbFrame s.cfg seq sysid compid) s.sinkAnswers s.sinkAnswers.length
      sinkBytes := s.sinkBytes ++ (hbFrame s.cfg seq sysid compid).take (acceptedTotal s.sinkAnswers)
      sending := some ((hbFrame s.cfg seq sysid compid).drop (acceptedTotal s.sinkAnswers)) }

/-- R197: SEND_HB writes no parser field and not the accumulator, and reads neither: with any other parser state and accumulator
it sends the same bytes and gives the same response. -/
def Obligations.SendHbNeitherReadsNorWritesBlockState : Prop :=
  ∀ (s : State) (seq sysid compid : Byte) (p : Parser) (c : Checksum) (t : State),
    exec (.sendHb seq sysid compid) s = .next t →
      t.parser = s.parser ∧ t.crcAcc = s.crcAcc ∧ t.cfg = s.cfg ∧ t.cmds = s.cmds
        ∧ exec (.sendHb seq sysid compid) { s with parser := p, crcAcc := c } = .next { t with parser := p, crcAcc := c }

/-- Whatever the sink answers, what it has accepted of a heartbeat when SEND_HB goes on is a beginning of the frame, in order, with
no byte repeated or skipped, whole exactly when the answer is OK (43_encoder.md section 3). -/
def Obligations.SinkHoldsABeginningOfTheFrame : Prop :=
  ∀ (s t : State) (seq sysid compid : Byte), exec (.sendHb seq sysid compid) s = .next t →
    ∃ k, k ≤ 21 ∧ t.sinkBytes = s.sinkBytes ++ (hbFrame s.cfg seq sysid compid).take k
      ∧ (k = 21 ↔ t.sending = none ∧ t.responses = s.responses ++ [⟨.ok, none, none, none, none⟩])
      ∧ (k < 21 → t.sending = some ((hbFrame s.cfg seq sysid compid).drop k) ∧ t.responses = s.responses
        ∨ t.sending = none ∧ t.responses = s.responses ++ [⟨.sendFail, none, none, none, none⟩])

/-- A transfer left open goes on where it stood: SEND_HB over the answers at hand, then a step over the answers that came in
later, is SEND_HB over all of them at once (43_encoder.md section 3; the open transfer is the model's form, log entry 6). -/
def Obligations.OpenTransferResumesWhereItStood : Prop :=
  ∀ (s t : State) (seq sysid compid : Byte) (later : List SinkAnswer),
    exec (.sendHb seq sysid compid) s = .next t → t.sending ≠ none →
      step { t with sinkAnswers := later }
        = exec (.sendHb seq sysid compid) { s with sinkAnswers := s.sinkAnswers ++ later }

/-- With PAYLOAD_CAP ≥ 9, feeding the bytes of a heartbeat frame into a parser in WaitSync answers None twenty times and then the
message with HB_MSGID, the sender's identifiers and HB_PAYLOAD (43_encoder.md section 3, derived there; D15). -/
def Obligations.HeartbeatParsesBack : Prop :=
  ∀ (s : State) (seq sysid compid : Byte),
    s.parser.phase = .waitSync → s.parser.pay.length = s.cfg.payloadCap.toNat → 9 ≤ s.cfg.payloadCap.toNat →
      runCommands ((hbFrame s.cfg seq sysid compid).map .feed) s
        = .next { s with
          parser := Parser.reset s.cfg.payloadCap
          responses := s.responses ++ List.replicate 20 (feedResponse none)
            ++ [feedResponse (some ⟨s.cfg.hbMsgid, sysid, compid, 9, s.cfg.hbPayload.toList⟩)] }

/-! ## The whole machine -/

/-- R260: the power-on state. The spec chooses the values other than the phase (D9, D30). -/
def Obligations.PowerOnState : Prop :=
  ∀ cfg : Config,
    (State.powerOn cfg).parser
        = ⟨.waitSync, false, 5, Vector.replicate 9 0, 0, 0, List.replicate cfg.payloadCap.toNat 0, 0, 0, false, 0, 0⟩
      ∧ (State.powerOn cfg).crcAcc = 0xFFFF
      ∧ exec .reset (State.powerOn cfg)
        = .next { State.powerOn cfg with responses := [⟨.ok, none, none, none, none⟩] }

/-- R262: a configuration that fails a check of 00_scope.md section 3 is refused and the block is not started; one that passes is
the configuration of the power-on state; and no step changes it. -/
def Obligations.ConfigurationIsCheckedAndFixed : Prop :=
  (∀ r : RawConfig,
    ((r.registry.lookup r.hbMsgid).isSome = true ∧ r.hbPayload.length = 9 ∧ r.payloadCap ≤ 255
        ∧ (∀ e ∈ r.registry, e.1 < 2 ^ 24) ∧ (∀ e ∈ r.registry, e.2 < 2 ^ 8) →
      ∃ cfg, powerOn r = .next (State.powerOn cfg)
        ∧ cfg.payloadCap.toNat = r.payloadCap ∧ cfg.hbMsgid.toNat = r.hbMsgid ∧ cfg.hbPayload.toList = r.hbPayload
        ∧ ∀ id : MsgId, (cfg.registry.lookup id).map BitVec.toNat = r.registry.lookup id.toNat)
    ∧ (¬ ((r.registry.lookup r.hbMsgid).isSome = true ∧ r.hbPayload.length = 9 ∧ r.payloadCap ≤ 255
        ∧ (∀ e ∈ r.registry, e.1 < 2 ^ 24) ∧ (∀ e ∈ r.registry, e.2 < 2 ^ 8)) →
      powerOn r = .refused .illFormedConfig))
    ∧ ∀ s t : State, step s = .next t → t.cfg = s.cfg

/-- Every command gives one response, each field is present for the commands listed and only for them (D5), an ILLEGAL response
carries only its status, and no status has the code 3 (30_encoding.md section 1). A SEND_HB whose sink has given no
final answer has given no response yet: it completes only when the sink does (70_reset_and_hazards.md section 2), and
that a step leaves it open is the model's form (log entry 6). -/
def Obligations.ResponseFieldsByCommand : Prop :=
  statusCode .ok = 0 ∧ statusCode .illegal = 1 ∧ statusCode .sendFail = 2 ∧ (∀ st, statusCode st ≠ 3)
    ∧ (∀ (s : State) (w : CmdWord) (ws : List CmdWord) (e : Illegal),
      s.sending = none → s.cmds = w :: ws → decode w = .error e →
        ∃ t, step s = .next t ∧ t.responses = s.responses ++ [⟨.illegal, none, none, none, none⟩])
    ∧ ∀ (i : Instr) (s t : State), exec i s = .next t →
      (t.responses = s.responses ∧ t.sending ≠ none ∧ opNumber i = 7)
      ∨ ∃ r, t.responses = s.responses ++ [r]
        ∧ r.status ≠ .illegal
        ∧ (r.status = .sendFail → opNumber i = 7)
        ∧ (r.msg ≠ none → opNumber i = 1)
        ∧ (2 ≤ opNumber i ∧ opNumber i ≤ 5 → r.acc = some t.crcAcc)
        ∧ (¬ (2 ≤ opNumber i ∧ opNumber i ≤ 5) → r.acc = none)
        ∧ (r.found ≠ none ↔ opNumber i = 5 ∨ opNumber i = 6)
        ∧ (r.salt ≠ none ↔ r.found = some true)

/-- The accumulator is written only by the four CRC commands, the parser only by FEED and RESET, the sink's bytes only by SEND_HB, and
what the sink has accepted and what has been answered is never taken back (10_state.md section 3, 20_memory.md section 3,
70_reset_and_hazards.md section 1). -/
def Obligations.EachCommandWritesOnlyItsOwnState : Prop :=
  ∀ (i : Instr) (s t : State), exec i s = .next t →
    (¬ (2 ≤ opNumber i ∧ opNumber i ≤ 5) → t.crcAcc = s.crcAcc)
    ∧ (opNumber i ≠ 0 → opNumber i ≠ 1 → t.parser = s.parser)
    ∧ (opNumber i ≠ 7 → t.sinkBytes = s.sinkBytes ∧ t.sinkOffers = s.sinkOffers ∧ t.sinkAnswers = s.sinkAnswers
      ∧ t.sending = s.sending)
    ∧ t.cfg = s.cfg ∧ t.cmds = s.cmds ∧ s.sinkBytes <+: t.sinkBytes ∧ s.responses <+: t.responses

/-- No step is refused, and a step stops only in the write protocol of SEND_HB, exactly when its sink breaks the law of its
answers: after answers that keep it, an acceptance of no byte, or of more than were offered. With any other answers, few
or many bytes at a time, SEND_HB goes on, and so does an open transfer (60_exceptions.md section 1, 00_scope.md section
4; the stop is the model's, log entry 7, and the open transfer its form, log entry 6). -/
def Obligations.OnlyALawlessSinkStopsTheBlock : Prop :=
  (∀ (s : State) (r : Refusal), step s ≠ .refused r)
    ∧ (∀ (i : Instr) (s : State), opNumber i ≠ 7 → ∃ t, exec i s = .next t)
    ∧ (∀ (s : State) (seq sysid compid : Byte),
      (BreaksTheLaw 21 s.sinkAnswers → exec (.sendHb seq sysid compid) s = .fault .sinkAnswerOutOfRange)
        ∧ (¬ BreaksTheLaw 21 s.sinkAnswers → ∃ t, exec (.sendHb seq sysid compid) s = .next t))
    ∧ (∀ (s : State) (rest : List Byte), s.sending = some rest →
      (BreaksTheLaw rest.length s.sinkAnswers → step s = .fault .sinkAnswerOutOfRange)
        ∧ (¬ BreaksTheLaw rest.length s.sinkAnswers → ∃ t, step s = .next t))
    ∧ ∀ (s : State) (f : Fault), s.sending = none → step s = .fault f →
      ∃ (w : CmdWord) (ws : List CmdWord) (seq sysid compid : Byte),
        s.cmds = w :: ws ∧ decode w = .ok (.sendHb seq sysid compid) ∧ BreaksTheLaw 21 s.sinkAnswers

/-- No step reads DZ_BASE: with another placement of the block every step does the same (20_memory.md section 1, D25; log entry
15). -/
def Obligations.PlacementIsNeverRead : Prop :=
  ∀ (s t : State) (base : Option Nat), step s = .next t →
    step { s with cfg := { s.cfg with dzBase := base } } = .next { t with cfg := { t.cfg with dzBase := base } }

/-- The reader returns at the first message of its target: the bytes fed end with the one that completed it, no message before it
had that identifier, the bytes after it are not fed, and a buffer split anywhere before it parses the same. A buffer
without such a message is fed whole (60_exceptions.md section 4, D34; host software, log entry 14). -/
def Obligations.ReaderStopsAtTheTargetMessage : Prop :=
  (∀ (target : MsgId) (bs : List Byte) (s t : State) (m : Message), feedBuffer target bs s = (some m, t) →
    m.msgid = target
      ∧ ∃ (fed lost : List Byte) (earlier : List Response),
        bs = fed ++ lost ∧ fed ≠ [] ∧ runCommands (fed.map .feed) s = .next t
        ∧ t.responses = s.responses ++ earlier ++ [feedResponse (some m)] ∧ earlier.length + 1 = fed.length
        ∧ (∀ r ∈ earlier, ∀ m', r.msg = some m' → m'.msgid ≠ target)
        ∧ (∀ more, feedBuffer target (fed ++ more) s = (some m, t))
        ∧ ∀ a b : List Byte, fed = a ++ b → b ≠ [] → ∃ u, feedBuffer target a s = (none, u)
          ∧ ∀ more, feedBuffer target (b ++ more) u = (some m, t))
    ∧ ∀ (target : MsgId) (bs : List Byte) (s t : State), feedBuffer target bs s = (none, t) →
      runCommands (bs.map .feed) s = .next t
        ∧ ∃ earlier : List Response, t.responses = s.responses ++ earlier ∧ earlier.length = bs.length
          ∧ ∀ r ∈ earlier, ∀ m', r.msg = some m' → m'.msgid ≠ target
end

