-- ==== Sys2Proof/Laws/Config.lean ====
section
/-! SUPPORT. The registry of the source's deployment has exactly two entries (42_registry.md R171), whatever its open values. -/

namespace Sys2Proof

theorem Config.freeOtherMsgid_ne_freeHbMsgid : freeOtherMsgid ≠ freeHbMsgid := by
  intro h
  have h := congrArg BitVec.toNat h
  have hlt := freeOtherDistance.isLt
  rw [freeOtherMsgid, BitVec.toNat_add, BitVec.toNat_ofNat] at h
  omega

theorem Config.deployed_lookup_hb : deployed.registry.lookup freeHbMsgid = some freeHbSalt := by
  simp [deployed]

theorem Config.deployed_lookup_other : deployed.registry.lookup freeOtherMsgid = some freeOtherSalt := by
  have h : (freeOtherMsgid == freeHbMsgid) = false := beq_eq_false_iff_ne.mpr freeOtherMsgid_ne_freeHbMsgid
  simp [deployed, List.lookup, h]

theorem Config.deployed_lookup_isSome (id : MsgId) :
    (deployed.registry.lookup id).isSome = true ↔ id = freeHbMsgid ∨ id = freeOtherMsgid := by
  by_cases h1 : id = freeHbMsgid
  · simp [h1, deployed_lookup_hb]
  · by_cases h2 : id = freeOtherMsgid
    · simp [h2, deployed_lookup_other]
    · simp [deployed, List.lookup, beq_eq_false_iff_ne.mpr h1, beq_eq_false_iff_ne.mpr h2, h1, h2]

end Sys2Proof
end

