-- ==== Sys2Proof/Laws/Decode.lean ====
section
/-! SUPPORT. The fields of a command word as numbers (30_encoding.md R70, R71), and the fields of the word the encoder
builds. A fact about a field becomes one about div and mod of the word's number. -/

namespace Sys2Proof

theorem opField_toNat (w : CmdWord) : (opField w).toNat = w.toNat / 2 ^ 28 := by
  simp only [opField, BitVec.extractLsb'_toNat, Nat.shiftRight_eq_div_pow]
  have := w.isLt
  omega

theorem rsvField_toNat (w : CmdWord) : (rsvField w).toNat = w.toNat / 2 ^ 24 % 2 ^ 4 := by
  simp only [rsvField, BitVec.extractLsb'_toNat, Nat.shiftRight_eq_div_pow]

theorem byte0_toNat (w : CmdWord) : (byte0 w).toNat = w.toNat % 2 ^ 8 := by
  simp [byte0, BitVec.extractLsb'_toNat]

theorem byte1_toNat (w : CmdWord) : (byte1 w).toNat = w.toNat / 2 ^ 8 % 2 ^ 8 := by
  simp only [byte1, BitVec.extractLsb'_toNat, Nat.shiftRight_eq_div_pow]

theorem byte2_toNat (w : CmdWord) : (byte2 w).toNat = w.toNat / 2 ^ 16 % 2 ^ 8 := by
  simp only [byte2, BitVec.extractLsb'_toNat, Nat.shiftRight_eq_div_pow]

theorem checksumOperand_toNat (w : CmdWord) : (checksumOperand w).toNat = w.toNat % 2 ^ 16 := by
  simp [checksumOperand, BitVec.extractLsb'_toNat]

theorem idOperand_toNat (w : CmdWord) : (idOperand w).toNat = w.toNat % 2 ^ 24 := by
  simp [idOperand, BitVec.extractLsb'_toNat]

theorem aboveByte_toNat (w : CmdWord) : (aboveByte w).toNat = w.toNat / 2 ^ 8 % 2 ^ 16 := by
  simp only [aboveByte, BitVec.extractLsb'_toNat, Nat.shiftRight_eq_div_pow]

theorem commandWord_toNat (op : BitVec 4) (x : BitVec 24) :
    (commandWord op x).toNat = op.toNat * 2 ^ 28 + x.toNat := by
  have h1 := op.isLt
  have h2 := x.isLt
  show (op ++ (0#4 ++ x)).toNat = _
  rw [BitVec.toNat_append, BitVec.toNat_append, ← Nat.shiftLeft_add_eq_or_of_lt, ← Nat.shiftLeft_add_eq_or_of_lt,
    Nat.shiftLeft_eq, Nat.shiftLeft_eq]
  · simp
  · omega
  · simp [Nat.shiftLeft_eq]
    omega

theorem threeBytes_toNat (a b c : Byte) :
    (a ++ (b ++ c) : BitVec 24).toNat = a.toNat * 2 ^ 16 + b.toNat * 2 ^ 8 + c.toNat := by
  have h1 := a.isLt
  have h2 := b.isLt
  have h3 := c.isLt
  have hbc : (b ++ c).toNat = b.toNat * 2 ^ 8 + c.toNat := by
    rw [BitVec.toNat_append, ← Nat.shiftLeft_add_eq_or_of_lt h3, Nat.shiftLeft_eq]
  show (a ++ (b ++ c)).toNat = _
  rw [BitVec.toNat_append, hbc, ← Nat.shiftLeft_add_eq_or_of_lt, Nat.shiftLeft_eq]
  · simp [Nat.add_assoc]
  · omega

theorem opField_commandWord (op : BitVec 4) (x : BitVec 24) : opField (commandWord op x) = op := by
  apply BitVec.eq_of_toNat_eq
  rw [opField_toNat, commandWord_toNat]
  have := x.isLt
  omega

theorem rsvField_commandWord (op : BitVec 4) (x : BitVec 24) : rsvField (commandWord op x) = 0#4 := by
  apply BitVec.eq_of_toNat_eq
  rw [rsvField_toNat, commandWord_toNat, BitVec.toNat_ofNat]
  have := x.isLt
  omega

theorem idOperand_commandWord (op : BitVec 4) (x : BitVec 24) : idOperand (commandWord op x) = x := by
  apply BitVec.eq_of_toNat_eq
  rw [idOperand_toNat, commandWord_toNat]
  have := x.isLt
  omega

/-- A field below bit 24 of a command word is that field of its operand. -/
theorem byteFields_commandWord (op : BitVec 4) (b : Byte) :
    aboveByte (commandWord op (b.setWidth 24)) = 0#16 ∧ byte0 (commandWord op (b.setWidth 24)) = b := by
  have := b.isLt
  constructor <;> apply BitVec.eq_of_toNat_eq <;>
    simp only [aboveByte_toNat, byte0_toNat, commandWord_toNat, BitVec.toNat_setWidth, BitVec.toNat_ofNat] <;> omega

theorem checksumFields_commandWord (op : BitVec 4) (v : Checksum) :
    byte2 (commandWord op (v.setWidth 24)) = 0#8 ∧ checksumOperand (commandWord op (v.setWidth 24)) = v := by
  have := v.isLt
  constructor <;> apply BitVec.eq_of_toNat_eq <;>
    simp only [byte2_toNat, checksumOperand_toNat, commandWord_toNat, BitVec.toNat_setWidth, BitVec.toNat_ofNat] <;> omega

theorem threeByteFields_commandWord (op : BitVec 4) (a b c : Byte) :
    byte2 (commandWord op (a ++ (b ++ c))) = a ∧ byte1 (commandWord op (a ++ (b ++ c))) = b
      ∧ byte0 (commandWord op (a ++ (b ++ c))) = c := by
  have := a.isLt
  have := b.isLt
  have := c.isLt
  refine ⟨?_, ?_, ?_⟩ <;> apply BitVec.eq_of_toNat_eq <;>
    simp only [byte2_toNat, byte1_toNat, byte0_toNat, commandWord_toNat, threeBytes_toNat] <;> omega

end Sys2Proof
end

