-- ==== Sys2Proof/Laws/State.lean ====
section
/-! SUPPORT. One lemma per field of State per update of it, so that no later proof unfolds a record update. -/

namespace Sys2Proof.Machine

@[simp] theorem State.respond_cfg (s : State) (r : Response) : (s.respond r).cfg = s.cfg := rfl
@[simp] theorem State.respond_parser (s : State) (r : Response) : (s.respond r).parser = s.parser := rfl
@[simp] theorem State.respond_crcAcc (s : State) (r : Response) : (s.respond r).crcAcc = s.crcAcc := rfl
@[simp] theorem State.respond_cmds (s : State) (r : Response) : (s.respond r).cmds = s.cmds := rfl
@[simp] theorem State.respond_responses (s : State) (r : Response) : (s.respond r).responses = s.responses ++ [r] := rfl
@[simp] theorem State.respond_sinkAnswers (s : State) (r : Response) : (s.respond r).sinkAnswers = s.sinkAnswers := rfl
@[simp] theorem State.respond_sinkOffers (s : State) (r : Response) : (s.respond r).sinkOffers = s.sinkOffers := rfl
@[simp] theorem State.respond_sinkBytes (s : State) (r : Response) : (s.respond r).sinkBytes = s.sinkBytes := rfl
@[simp] theorem State.respond_sending (s : State) (r : Response) : (s.respond r).sending = s.sending := rfl

@[simp] theorem State.withCrcAcc_cfg (s : State) (c : Checksum) : (s.withCrcAcc c).cfg = s.cfg := rfl
@[simp] theorem State.withCrcAcc_parser (s : State) (c : Checksum) : (s.withCrcAcc c).parser = s.parser := rfl
@[simp] theorem State.withCrcAcc_crcAcc (s : State) (c : Checksum) : (s.withCrcAcc c).crcAcc = c := rfl
@[simp] theorem State.withCrcAcc_cmds (s : State) (c : Checksum) : (s.withCrcAcc c).cmds = s.cmds := rfl
@[simp] theorem State.withCrcAcc_responses (s : State) (c : Checksum) : (s.withCrcAcc c).responses = s.responses := rfl
@[simp] theorem State.withCrcAcc_sinkAnswers (s : State) (c : Checksum) : (s.withCrcAcc c).sinkAnswers = s.sinkAnswers := rfl
@[simp] theorem State.withCrcAcc_sinkOffers (s : State) (c : Checksum) : (s.withCrcAcc c).sinkOffers = s.sinkOffers := rfl
@[simp] theorem State.withCrcAcc_sinkBytes (s : State) (c : Checksum) : (s.withCrcAcc c).sinkBytes = s.sinkBytes := rfl
@[simp] theorem State.withCrcAcc_sending (s : State) (c : Checksum) : (s.withCrcAcc c).sending = s.sending := rfl

@[simp] theorem State.withParser_cfg (s : State) (p : Parser) : (s.withParser p).cfg = s.cfg := rfl
@[simp] theorem State.withParser_parser (s : State) (p : Parser) : (s.withParser p).parser = p := rfl
@[simp] theorem State.withParser_crcAcc (s : State) (p : Parser) : (s.withParser p).crcAcc = s.crcAcc := rfl
@[simp] theorem State.withParser_cmds (s : State) (p : Parser) : (s.withParser p).cmds = s.cmds := rfl
@[simp] theorem State.withParser_responses (s : State) (p : Parser) : (s.withParser p).responses = s.responses := rfl
@[simp] theorem State.withParser_sinkAnswers (s : State) (p : Parser) : (s.withParser p).sinkAnswers = s.sinkAnswers := rfl
@[simp] theorem State.withParser_sinkOffers (s : State) (p : Parser) : (s.withParser p).sinkOffers = s.sinkOffers := rfl
@[simp] theorem State.withParser_sinkBytes (s : State) (p : Parser) : (s.withParser p).sinkBytes = s.sinkBytes := rfl
@[simp] theorem State.withParser_sending (s : State) (p : Parser) : (s.withParser p).sending = s.sending := rfl

@[simp] theorem State.withCmds_cfg (s : State) (ws : List CmdWord) : (s.withCmds ws).cfg = s.cfg := rfl
@[simp] theorem State.withCmds_parser (s : State) (ws : List CmdWord) : (s.withCmds ws).parser = s.parser := rfl
@[simp] theorem State.withCmds_crcAcc (s : State) (ws : List CmdWord) : (s.withCmds ws).crcAcc = s.crcAcc := rfl
@[simp] theorem State.withCmds_cmds (s : State) (ws : List CmdWord) : (s.withCmds ws).cmds = ws := rfl
@[simp] theorem State.withCmds_responses (s : State) (ws : List CmdWord) : (s.withCmds ws).responses = s.responses := rfl
@[simp] theorem State.withCmds_sinkAnswers (s : State) (ws : List CmdWord) : (s.withCmds ws).sinkAnswers = s.sinkAnswers := rfl
@[simp] theorem State.withCmds_sinkOffers (s : State) (ws : List CmdWord) : (s.withCmds ws).sinkOffers = s.sinkOffers := rfl
@[simp] theorem State.withCmds_sinkBytes (s : State) (ws : List CmdWord) : (s.withCmds ws).sinkBytes = s.sinkBytes := rfl
@[simp] theorem State.withCmds_sending (s : State) (ws : List CmdWord) : (s.withCmds ws).sending = s.sending := rfl

@[simp] theorem State.withDelivery_cfg (s : State) (d : Delivery) (rest : Option (List Byte)) : (s.withDelivery d rest).cfg = s.cfg := rfl
@[simp] theorem State.withDelivery_parser (s : State) (d : Delivery) (rest : Option (List Byte)) : (s.withDelivery d rest).parser = s.parser := rfl
@[simp] theorem State.withDelivery_crcAcc (s : State) (d : Delivery) (rest : Option (List Byte)) : (s.withDelivery d rest).crcAcc = s.crcAcc := rfl
@[simp] theorem State.withDelivery_cmds (s : State) (d : Delivery) (rest : Option (List Byte)) : (s.withDelivery d rest).cmds = s.cmds := rfl
@[simp] theorem State.withDelivery_responses (s : State) (d : Delivery) (rest : Option (List Byte)) : (s.withDelivery d rest).responses = s.responses := rfl
@[simp] theorem State.withDelivery_sinkAnswers (s : State) (d : Delivery) (rest : Option (List Byte)) : (s.withDelivery d rest).sinkAnswers = d.answers := rfl
@[simp] theorem State.withDelivery_sinkOffers (s : State) (d : Delivery) (rest : Option (List Byte)) : (s.withDelivery d rest).sinkOffers = s.sinkOffers ++ d.offers := rfl
@[simp] theorem State.withDelivery_sinkBytes (s : State) (d : Delivery) (rest : Option (List Byte)) : (s.withDelivery d rest).sinkBytes = s.sinkBytes ++ d.accepted := rfl
@[simp] theorem State.withDelivery_sending (s : State) (d : Delivery) (rest : Option (List Byte)) : (s.withDelivery d rest).sending = rest := rfl

@[simp] theorem State.powerOn_cfg (c : Config) : (State.powerOn c).cfg = c := rfl
@[simp] theorem State.powerOn_parser (c : Config) : (State.powerOn c).parser = Parser.reset c.payloadCap := rfl
@[simp] theorem State.powerOn_crcAcc (c : Config) : (State.powerOn c).crcAcc = crcSeedValue := rfl
@[simp] theorem State.powerOn_cmds (c : Config) : (State.powerOn c).cmds = [] := rfl
@[simp] theorem State.powerOn_responses (c : Config) : (State.powerOn c).responses = [] := rfl
@[simp] theorem State.powerOn_sinkAnswers (c : Config) : (State.powerOn c).sinkAnswers = [] := rfl
@[simp] theorem State.powerOn_sinkOffers (c : Config) : (State.powerOn c).sinkOffers = [] := rfl
@[simp] theorem State.powerOn_sinkBytes (c : Config) : (State.powerOn c).sinkBytes = [] := rfl
@[simp] theorem State.powerOn_sending (c : Config) : (State.powerOn c).sending = none := rfl

end Sys2Proof.Machine
end

