-- ==== Sys2Proof/Laws/Ops.lean ====
section
/-! SUPPORT. One lemma per shared operation that says what it can do: the checksum fold, the write protocol and its
delivery, and taking a command. -/

namespace Sys2Proof.Machine

@[simp] theorem crcFold_nil (c : Checksum) : crcFold c [] = c := rfl

@[simp] theorem crcFold_cons (c : Checksum) (b : Byte) (bs : List Byte) :
    crcFold c (b :: bs) = crcFold (crcStep c b) bs := rfl

@[simp] theorem foldSalt_some (c : Checksum) (x : Byte) : foldSalt c (some x) = crcStep c x := rfl

@[simp] theorem foldSalt_none (c : Checksum) : foldSalt c none = c := rfl

/-! ### The write protocol (43_encoder.md R195) -/

theorem sinkSend_empty (answers : List SinkAnswer) : sinkSend [] answers = ⟨[], [], [], answers, .done⟩ := by
  cases answers <;> rfl

theorem sinkSend_noAnswer {rest : List Byte} (h : rest ≠ []) : sinkSend rest [] = ⟨[], [], rest, [], .waiting⟩ := by
  cases rest with
  | nil => exact absurd rfl h
  | cons b bs => rfl

theorem sinkSend_accepted {rest : List Byte} {n : Nat} (answers : List SinkAnswer) (h1 : 1 ≤ n) (h2 : n ≤ rest.length) :
    sinkSend rest (.accepted n :: answers) = (sinkSend (rest.drop n) answers).after rest (rest.take n) := by
  cases rest with
  | nil => simp at h2; omega
  | cons b bs => simp only [sinkSend, List.isEmpty_cons, Bool.false_eq_true, if_false, if_pos (And.intro h1 h2)]

theorem sinkSend_lawless {rest : List Byte} {n : Nat} (answers : List SinkAnswer) (h : rest ≠ [])
    (hn : ¬ (1 ≤ n ∧ n ≤ rest.length)) :
    sinkSend rest (.accepted n :: answers) = ⟨[rest], [], rest, answers, .outOfRange⟩ := by
  cases rest with
  | nil => exact absurd rfl h
  | cons b bs => simp only [sinkSend, List.isEmpty_cons, Bool.false_eq_true, if_false, if_neg hn]

theorem sinkSend_interrupted {rest : List Byte} (answers : List SinkAnswer) (h : rest ≠ []) :
    sinkSend rest (.interrupted :: answers) = (sinkSend rest answers).after rest [] := by
  cases rest with
  | nil => exact absurd rfl h
  | cons b bs => rfl

theorem sinkSend_fault {rest : List Byte} (answers : List SinkAnswer) (h : rest ≠ []) :
    sinkSend rest (.fault :: answers) = ⟨[rest], [], rest, answers, .failed⟩ := by
  cases rest with
  | nil => exact absurd rfl h
  | cons b bs => rfl

/-- What the sink has accepted and what is left are the bytes offered at first, in order. -/
theorem sinkSend_split (answers : List SinkAnswer) : ∀ rest : List Byte,
    (sinkSend rest answers).accepted ++ (sinkSend rest answers).rest = rest := by
  induction answers with
  | nil => intro rest; rfl
  | cons a answers ih =>
    intro rest
    by_cases h : rest = []
    · subst h; rw [sinkSend_empty]; rfl
    · cases a with
      | accepted n =>
        by_cases hn : 1 ≤ n ∧ n ≤ rest.length
        · rw [sinkSend_accepted answers hn.1 hn.2]
          simp only [Delivery.after, List.append_assoc, ih, List.take_append_drop]
        · rw [sinkSend_lawless answers h hn]; rfl
      | interrupted => rw [sinkSend_interrupted answers h]; exact ih rest
      | fault => rw [sinkSend_fault answers h]; rfl

/-- How a run of the write protocol ends: done with nothing left, failed with something left, or waiting with something left
and every answer used. -/
theorem sinkSend_verdict (answers : List SinkAnswer) : ∀ rest : List Byte,
    match (sinkSend rest answers).verdict with
    | .done => (sinkSend rest answers).rest = []
    | .failed => (sinkSend rest answers).rest ≠ []
    | .waiting => (sinkSend rest answers).rest ≠ [] ∧ (sinkSend rest answers).answers = []
    | .outOfRange => True := by
  induction answers with
  | nil =>
    intro rest
    by_cases h : rest = []
    · subst h; rfl
    · rw [sinkSend_noAnswer h]; exact ⟨h, rfl⟩
  | cons a answers ih =>
    intro rest
    by_cases h : rest = []
    · subst h; rw [sinkSend_empty]
    · cases a with
      | accepted n =>
        by_cases hn : 1 ≤ n ∧ n ≤ rest.length
        · rw [sinkSend_accepted answers hn.1 hn.2]; exact ih (rest.drop n)
        · rw [sinkSend_lawless answers h hn]; trivial
      | interrupted => rw [sinkSend_interrupted answers h]; exact ih rest
      | fault => rw [sinkSend_fault answers h]; exact h

/-- Everything a delivery that goes on can have done. -/
theorem deliver_next {rest : List Byte} {s t : State} (h : deliver rest s = .next t) :
    ((sinkSend rest s.sinkAnswers).verdict = .done
        ∧ t = (s.withDelivery (sinkSend rest s.sinkAnswers) none).respond (bareResponse .ok))
      ∨ ((sinkSend rest s.sinkAnswers).verdict = .failed
        ∧ t = (s.withDelivery (sinkSend rest s.sinkAnswers) none).respond (bareResponse .sendFail))
      ∨ ((sinkSend rest s.sinkAnswers).verdict = .waiting
        ∧ t = s.withDelivery (sinkSend rest s.sinkAnswers) (some (sinkSend rest s.sinkAnswers).rest)) := by
  unfold deliver endDelivery at h
  split at h
  · exact .inl ⟨‹_›, by simpa using h.symm⟩
  · exact .inr (.inl ⟨‹_›, by simpa using h.symm⟩)
  · exact .inr (.inr ⟨‹_›, by simpa using h.symm⟩)
  · cases h

theorem deliver_of_done {rest : List Byte} {s : State} (h : (sinkSend rest s.sinkAnswers).verdict = .done) :
    deliver rest s = .next ((s.withDelivery (sinkSend rest s.sinkAnswers) none).respond (bareResponse .ok)) := by
  simp only [deliver, endDelivery, h]

theorem deliver_of_failed {rest : List Byte} {s : State} (h : (sinkSend rest s.sinkAnswers).verdict = .failed) :
    deliver rest s = .next ((s.withDelivery (sinkSend rest s.sinkAnswers) none).respond (bareResponse .sendFail)) := by
  simp only [deliver, endDelivery, h]

theorem deliver_of_waiting {rest : List Byte} {s : State} (h : (sinkSend rest s.sinkAnswers).verdict = .waiting) :
    deliver rest s
      = .next (s.withDelivery (sinkSend rest s.sinkAnswers) (some (sinkSend rest s.sinkAnswers).rest)) := by
  simp only [deliver, endDelivery, h]

theorem deliver_of_outOfRange {rest : List Byte} {s : State}
    (h : (sinkSend rest s.sinkAnswers).verdict = .outOfRange) : deliver rest s = .fault .sinkAnswerOutOfRange := by
  simp only [deliver, endDelivery, h]

theorem deliver_ne_refused (rest : List Byte) (s : State) (r : Refusal) : deliver rest s ≠ .refused r := by
  unfold deliver endDelivery
  split <;> simp

end Sys2Proof.Machine
end

