-- ==== Sys2Proof/Laws/FrameEncoder.lean ====
section
/-! SUPPORT. The write protocol over the sink's answers in the terms of Safety.lean (43_encoder.md R195): what lawful answers
leave to do, and that a run stops exactly on a lawless one. -/

namespace Sys2Proof.Machine

@[simp] theorem hbFrame_length (cfg : Config) (seq sysid compid : Byte) : (hbFrame cfg seq sysid compid).length = 21 := by
  simp [hbFrame, hbHeader]

@[simp] theorem acceptedTotal_nil : acceptedTotal [] = 0 := rfl

@[simp] theorem acceptedTotal_accepted (n : Nat) (as : List SinkAnswer) :
    acceptedTotal (.accepted n :: as) = n + acceptedTotal as := by simp [acceptedTotal]

@[simp] theorem acceptedTotal_interrupted (as : List SinkAnswer) :
    acceptedTotal (.interrupted :: as) = acceptedTotal as := by simp [acceptedTotal]

@[simp] theorem progressing_accepted (n : Nat) (as : List SinkAnswer) :
    progressing (.accepted n :: as) = (decide (1 ≤ n) && progressing as) := rfl

@[simp] theorem progressing_interrupted (as : List SinkAnswer) : progressing (.interrupted :: as) = progressing as := rfl

@[simp] theorem progressing_fault (as : List SinkAnswer) : progressing (.fault :: as) = false := rfl

theorem remaindersOffered_accepted (frame : List Byte) (n : Nat) (as : List SinkAnswer) (k : Nat) :
    remaindersOffered frame (.accepted n :: as) (k + 1) = frame :: remaindersOffered (frame.drop n) as k := by
  simp [remaindersOffered, List.range_succ_eq_map]

theorem remaindersOffered_interrupted (frame : List Byte) (as : List SinkAnswer) (k : Nat) :
    remaindersOffered frame (.interrupted :: as) (k + 1) = frame :: remaindersOffered frame as k := by
  simp [remaindersOffered, List.range_succ_eq_map]

theorem remaindersOffered_last (frame : List Byte) (as : List SinkAnswer) :
    remaindersOffered frame as (as.length + 1)
      = remaindersOffered frame as as.length ++ [frame.drop (acceptedTotal as)] := by
  simp [remaindersOffered, List.range_succ]

/-- After answers that make progress and leave something to send, the protocol goes on from what is left. -/
theorem sinkSend_after_progress (as later : List SinkAnswer) : ∀ rest : List Byte,
    progressing as = true → acceptedTotal as < rest.length →
      sinkSend rest (as ++ later) =
        { sinkSend (rest.drop (acceptedTotal as)) later with
          offers := remaindersOffered rest as as.length ++ (sinkSend (rest.drop (acceptedTotal as)) later).offers
          accepted := rest.take (acceptedTotal as) ++ (sinkSend (rest.drop (acceptedTotal as)) later).accepted } := by
  induction as with
  | nil => intro rest _ _; simp [remaindersOffered]
  | cons a as ih =>
    intro rest hp ht
    have hne : rest ≠ [] := by rintro rfl; simp at ht
    rw [List.cons_append, List.length_cons]
    cases a with
    | accepted n =>
      simp only [progressing_accepted, Bool.and_eq_true, decide_eq_true_eq, acceptedTotal_accepted] at hp ht ⊢
      rw [sinkSend_accepted _ hp.1 (by omega), remaindersOffered_accepted,
        ih (rest.drop n) hp.2 (by rw [List.length_drop]; omega)]
      simp [Delivery.after, List.take_add]
    | interrupted =>
      simp only [progressing_interrupted, acceptedTotal_interrupted] at hp ht ⊢
      rw [sinkSend_interrupted _ hne, remaindersOffered_interrupted, ih rest hp ht]
      simp [Delivery.after]
    | fault => simp at hp

/-- A run of the protocol stops outside the law exactly when the sink breaks it. -/
theorem sinkSend_outOfRange_iff (as : List SinkAnswer) (rest : List Byte) :
    (sinkSend rest as).verdict = .outOfRange ↔ BreaksTheLaw rest.length as := by
  constructor
  · induction as generalizing rest with
    | nil =>
      intro h
      by_cases hne : rest = []
      · subst hne; simp [sinkSend_empty] at h
      · simp [sinkSend_noAnswer hne] at h
    | cons a as ih =>
      intro h
      by_cases hne : rest = []
      · subst hne; simp [sinkSend_empty] at h
      · have hpos : rest.length ≠ 0 := by simpa using hne
        cases a with
        | accepted n =>
          by_cases hn : 1 ≤ n ∧ n ≤ rest.length
          · rw [sinkSend_accepted _ hn.1 hn.2] at h
            obtain ⟨before, later, k, rfl, hp, ht, hk⟩ := ih (rest.drop n) h
            rw [List.length_drop] at ht hk
            refine ⟨.accepted n :: before, later, k, rfl, by simpa [hn.1] using hp, ?_, ?_⟩ <;>
              rw [acceptedTotal_accepted] <;> omega
          · exact ⟨[], as, n, rfl, rfl, by rw [acceptedTotal_nil]; omega, by rw [acceptedTotal_nil]; omega⟩
        | interrupted =>
          rw [sinkSend_interrupted _ hne] at h
          obtain ⟨before, later, k, rfl, hp, ht, hk⟩ := ih rest h
          exact ⟨.interrupted :: before, later, k, rfl, hp, by simpa using ht, by simpa using hk⟩
        | fault => rw [sinkSend_fault _ hne] at h; cases h
  · rintro ⟨before, later, n, rfl, hp, ht, hn⟩
    have hne : rest.drop (acceptedTotal before) ≠ [] := by
      intro h
      have := congrArg List.length h
      rw [List.length_drop, List.length_nil] at this
      omega
    rw [sinkSend_after_progress before _ rest hp ht,
      sinkSend_lawless _ hne (by rw [List.length_drop]; omega)]

end Sys2Proof.Machine
end

