-- ==== Sys2Proof/Laws/FrameParser.lean ====
section
/-! SUPPORT. The parser's transition function phase by phase (41_parser.md R124), so that no later proof unfolds it. -/

namespace Sys2Proof.Machine

section Phases

variable {cfg : Config} {p : Parser} {b : Byte}

theorem parseStep_waitSync (h : p.phase = .waitSync) : parseStep cfg p b = (stepWaitSync p b, none) := by
  simp only [parseStep, h]

theorem parseStep_header (h : p.phase = .header) : parseStep cfg p b = (stepHeader cfg p b, none) := by
  simp only [parseStep, h]

theorem parseStep_payload (h : p.phase = .payload) : parseStep cfg p b = (stepPayload p b, none) := by
  simp only [parseStep, h]

theorem parseStep_checksumLow (h : p.phase = .checksumLow) : parseStep cfg p b = (stepChecksumLow p b, none) := by
  simp only [parseStep, h]

theorem parseStep_checksumHigh (h : p.phase = .checksumHigh) : parseStep cfg p b = stepChecksumHigh cfg p b := by
  simp only [parseStep, h]

theorem parseStep_signature (h : p.phase = .signature) : parseStep cfg p b = stepSignature cfg p := by
  simp only [parseStep, h]

theorem stepHeader_within (h : p.hdrIdx + 1 ≠ p.hdrLen) : stepHeader cfg p b = appendHeader p b := by
  unfold stepHeader
  exact if_neg h

theorem stepHeader_last (h : p.hdrIdx + 1 = p.hdrLen) :
    stepHeader cfg p b = completeHeader cfg (appendHeader p b) := by
  unfold stepHeader
  exact if_pos h

theorem completeHeader_oversize (h : cfg.payloadCap < lenField p) : completeHeader cfg p = resync cfg := by
  simp only [completeHeader, if_pos h]

theorem completeHeader_fits (h : ¬ cfg.payloadCap < lenField p) : completeHeader cfg p =
    { readSignedFlag { p with payLen := lenField p } with
      payIdx := 0, phase := if lenField p = 0 then .checksumLow else .payload } := by
  simp only [completeHeader, if_neg h]

theorem stepPayload_within (h : p.payIdx + 1 ≠ p.payLen) : stepPayload p b = appendPayload p b := by
  unfold stepPayload
  exact if_neg h

theorem stepPayload_last (h : p.payIdx + 1 = p.payLen) :
    stepPayload p b = { appendPayload p b with phase := .checksumLow } := by
  unfold stepPayload
  exact if_pos h

@[simp] theorem finalize_parser : (finalize cfg p).1 = resync cfg := rfl

theorem finalize_message (h : frameAccepted cfg p = true) : (finalize cfg p).2 = some (frameMessage p) := by
  simp only [finalize, h, if_true]

theorem finalize_rejects (h : frameAccepted cfg p = false) : (finalize cfg p).2 = none := by
  simp only [finalize, h, Bool.false_eq_true, if_false]

/-- A step that yields a message finalized a frame, so it has resynchronized. -/
theorem parseStep_message {m : Message} (h : (parseStep cfg p b).2 = some m) :
    (p.phase = .checksumHigh ∧ trailerFollows p = false ∧ parseStep cfg p b = finalize cfg (withChecksumHigh p b))
      ∨ (p.phase = .signature ∧ p.sigCnt + 1 = sigLen
        ∧ parseStep cfg p b = finalize cfg { p with sigCnt := p.sigCnt + 1 }) := by
  cases hp : p.phase with
  | waitSync => rw [parseStep_waitSync hp] at h; cases h
  | header => rw [parseStep_header hp] at h; cases h
  | payload => rw [parseStep_payload hp] at h; cases h
  | checksumLow => rw [parseStep_checksumLow hp] at h; cases h
  | checksumHigh =>
    rw [parseStep_checksumHigh hp] at h ⊢
    unfold stepChecksumHigh at h ⊢
    split at h
    · cases h
    · rename_i hf
      exact .inl ⟨rfl, Bool.eq_false_iff.mpr hf, if_neg hf⟩
  | signature =>
    rw [parseStep_signature hp] at h ⊢
    unfold stepSignature at h ⊢
    split at h
    · exact .inr ⟨rfl, ‹_›, if_pos ‹_›⟩
    · cases h

end Phases

end Sys2Proof.Machine
end

