-- ==== Sys2Proof/Laws/PerInstr.lean ====
section
/-! SUPPORT. Facts stated for all commands, one lemma per constructor of Instr. RoundTrip: the word of a command has a zero
rsv field (30_encoding.md R70) and decodes to that command (R74). -/

namespace Sys2Proof.Laws.RoundTrip

def Statement (i : Instr) : Prop := rsvField (encode i) = 0 ∧ decode (encode i) = .ok i

theorem reset : Statement .reset := by unfold Statement; decide

theorem feed (b : Byte) : Statement (.feed b) := by
  simp [Statement, decode, encode, ifUnusedZero, rsvField_commandWord, opField_commandWord, byteFields_commandWord]

theorem crcSeed : Statement .crcSeed := by unfold Statement; decide

theorem crcLoad (v : Checksum) : Statement (.crcLoad v) := by
  simp [Statement, decode, encode, ifUnusedZero, rsvField_commandWord, opField_commandWord, checksumFields_commandWord]

theorem crcByte (b : Byte) : Statement (.crcByte b) := by
  simp [Statement, decode, encode, ifUnusedZero, rsvField_commandWord, opField_commandWord, byteFields_commandWord]

theorem crcSalt (id : MsgId) : Statement (.crcSalt id) := by
  simp [Statement, decode, encode, rsvField_commandWord, opField_commandWord, idOperand_commandWord]

theorem lookup (id : MsgId) : Statement (.lookup id) := by
  simp [Statement, decode, encode, rsvField_commandWord, opField_commandWord, idOperand_commandWord]

theorem sendHb (seq sysid compid : Byte) : Statement (.sendHb seq sysid compid) := by
  obtain ⟨h2, h1, h0⟩ := threeByteFields_commandWord 0x7 seq sysid compid
  simp [Statement, decode, encode, rsvField_commandWord, opField_commandWord]
  exact ⟨h2, h1, h0⟩

end Sys2Proof.Laws.RoundTrip
end

