-- ==== Sys2Proof/Tests/Slice0.lean ====
section
/-! SUPPORT. Tests: the checks of WellFormed.lean, the decoding of words written out from 30_encoding.md, one or two effects of
each command on a small state, and a witness for every statement with hypotheses. Expected results are those of
95_test_vectors.md and of the rules named, never the model's own answers. The example configuration is that of
95_test_vectors.md (assumed there) with PAYLOAD_CAP 9. -/

namespace Sys2Proof.Tests

open Sys2Proof Sys2Proof.Machine

/-! ## The states the tests run on -/

def exampleConfig : Config where
  payloadCap := 9
  registry := [(0, 0x32)]
  hbMsgid := 0
  hbPayload := #v[0x00, 0x00, 0x00, 0x00, 0x06, 0x08, 0x00, 0x00, 0x03]
  dzBase := none
  hbRegistered := by decide

def start : State := State.powerOn exampleConfig

/-- A state whose parser differs from its reset values as given. -/
def parsing (p : Parser) : State := { start with parser := p }

/-- The reset values of the parser for the example's capacity. -/
def idle : Parser := Parser.reset 9

/-- A v1 header with this many bytes held. -/
def v1Header (n : Nat) (len : Byte) : Parser :=
  { idle with phase := .header, hdr := #v[len, 5, 2, 3, 0, 0, 0, 0, 0], hdrIdx := BitVec.ofNat 4 n }

/-- A v2 header with this many bytes held. -/
def v2Header (n : Nat) (len incompat : Byte) : Parser :=
  { idle with
    phase := .header, v2 := true, hdrLen := 9
    hdr := #v[len, incompat, 0, 0, 1, 1, 0, 0, 0], hdrIdx := BitVec.ofNat 4 n }

/-- A v1 frame of two payload bytes with this many of them held. -/
def inPayload (n : Nat) : Parser :=
  { idle with
    phase := .payload, hdr := #v[2, 1, 2, 3, 0, 0, 0, 0, 0], hdrIdx := 5, payLen := 2, payIdx := BitVec.ofNat 8 n
    pay := [0xFD, 0, 0, 0, 0, 0, 0, 0, 0] }

/-- The frame of vector P2 up to its low checksum byte. -/
def p2Low : Parser :=
  { idle with phase := .checksumLow, hdr := #v[0, 5, 2, 3, 0, 0, 0, 0, 0], hdrIdx := 5 }

/-- The frame of vector P2 up to its high checksum byte. -/
def p2High : Parser := { p2Low with phase := .checksumHigh, rxCk := 0x00A7 }

/-- A signed v2 frame without payload up to its high checksum byte. -/
def signedHigh : Parser :=
  { idle with
    phase := .checksumHigh, v2 := true, hdrLen := 9, hdr := #v[0, 1, 0, 0, 1, 1, 0, 0, 0], hdrIdx := 9
    incompat := 1, signed := true, rxCk := 0x0084 }

/-- The frame of vector P13, but with its correct checksum 84 CC, with this many trailer bytes counted. -/
def inTrailer (n : Nat) : Parser := { signedHigh with phase := .signature, rxCk := 0xCC84, sigCnt := BitVec.ofNat 4 n }

/-! ## WellFormed: what each check refuses -/

def goodRaw : RawConfig := ⟨255, [(0, 0x32), (7, 1)], 0, [0, 0, 0, 0, 6, 8, 0, 0, 3], none⟩

theorem test_config_good : goodRaw.wellFormed = true := by decide
theorem test_config_unregistered_heartbeat : RawConfig.wellFormed { goodRaw with hbMsgid := 1 } = false := by decide
theorem test_config_short_payload : RawConfig.wellFormed { goodRaw with hbPayload := [1] } = false := by decide
theorem test_config_large_cap : RawConfig.wellFormed { goodRaw with payloadCap := 256 } = false := by decide
theorem test_config_wide_key :
    RawConfig.wellFormed { goodRaw with registry := [(0, 0x32), (0x1000000, 1)] } = false := by decide
theorem test_config_wide_salt : RawConfig.wellFormed { goodRaw with registry := [(0, 0x100)] } = false := by decide
theorem test_config_refused : powerOn { goodRaw with payloadCap := 256 } = .refused .illFormedConfig := rfl

theorem test_line_feed : AsmLine.wellFormed (.feed 0xFF) = true ∧ AsmLine.wellFormed (.feed 0x100) = false := by decide
theorem test_line_crcLoad :
    AsmLine.wellFormed (.crcLoad 0xFFFF) = true ∧ AsmLine.wellFormed (.crcLoad 0x10000) = false := by decide
theorem test_line_crcByte :
    AsmLine.wellFormed (.crcByte 0xFF) = true ∧ AsmLine.wellFormed (.crcByte 0x100) = false := by decide
theorem test_line_crcSalt :
    AsmLine.wellFormed (.crcSalt 0xFFFFFF) = true ∧ AsmLine.wellFormed (.crcSalt 0x1000000) = false := by decide
theorem test_line_lookup :
    AsmLine.wellFormed (.lookup 0xFFFFFF) = true ∧ AsmLine.wellFormed (.lookup 0x1000000) = false := by decide
theorem test_line_sendHb :
    AsmLine.wellFormed (.sendHb 255 255 255) = true
      ∧ AsmLine.wellFormed (.sendHb 256 0 0) = false
      ∧ AsmLine.wellFormed (.sendHb 0 256 0) = false
      ∧ AsmLine.wellFormed (.sendHb 0 0 256) = false := by decide
theorem test_line_feeds :
    AsmLine.wellFormed (.feeds [0, 255]) = true
      ∧ AsmLine.wellFormed (.feeds []) = false ∧ AsmLine.wellFormed (.feeds [0, 256]) = false := by decide
theorem test_line_crcBuf :
    AsmLine.wellFormed (.crcBuf [0, 255]) = true
      ∧ AsmLine.wellFormed (.crcBuf []) = false ∧ AsmLine.wellFormed (.crcBuf [256]) = false := by decide

/-- A line of program A in its own characters (30_encoding.md R75). -/
theorem test_readLine_sendHb :
    readLine ['S', 'E', 'N', 'D', '_', 'H', 'B', ' ', '7', ',', ' ', '0', 'x', 'F', 'F', ',', ' ', '1', '9', '0']
      = some (.sendHb 7 255 190) := by decide
theorem test_readLine_missing_operand : readLine ['F', 'E', 'E', 'D'] = none := by decide

/-! ## Decoding: words written out bit by bit, op, rsv and operand field (30_encoding.md R70 to R72) -/

theorem test_decode_reset : decode 0b0000_0000_000000000000000000000000 = .ok .reset := by decide
theorem test_decode_feed : decode 0b0001_0000_0000000000000000_11111101 = .ok (.feed 0xFD) := by decide
theorem test_decode_crcSeed : decode 0b0010_0000_000000000000000000000000 = .ok .crcSeed := by decide
theorem test_decode_crcLoad : decode 0b0011_0000_00000000_1010101111001101 = .ok (.crcLoad 0xABCD) := by decide
theorem test_decode_crcByte : decode 0b0100_0000_0000000000000000_11111111 = .ok (.crcByte 0xFF) := by decide
theorem test_decode_crcSalt : decode 0b0101_0000_111111110000000000000001 = .ok (.crcSalt 0xFF0001) := by decide
theorem test_decode_lookup : decode 0b0110_0000_000000010000000010000000 = .ok (.lookup 0x010080) := by decide
theorem test_decode_sendHb :
    decode 0b0111_0000_00000111_11111111_10111110 = .ok (.sendHb 7 255 190) := by decide
theorem test_decode_illegal :
    decode 0x10000100 = .error .reservedOperandBits ∧ decode 0x20000001 = .error .reservedOperandBits
      ∧ decode 0x3001ABCD = .error .reservedOperandBits ∧ decode 0x61000000 = .error .reservedField
      ∧ decode 0x80000000 = .error .reservedOpcode ∧ decode 0xF0000000 = .error .reservedOpcode := by decide
theorem test_encode_sendHb : encode (.sendHb 7 255 190) = 0x7007FFBE := by decide

/-! ## Effects: the vectors of 95_test_vectors.md and the examples of the rules -/

/-- R122: RESET drops the frame of vector P15 and leaves the accumulator. -/
theorem test_reset : exec .reset { parsing (v1Header 1 5) with crcAcc := 0x1234 }
    = .next { start with crcAcc := 0x1234, responses := [⟨.ok, none, none, none, none⟩] } := rfl

/-- Vector P2, the sync byte. -/
theorem test_feed_sync : exec (.feed 0xFE) start
    = .next { parsing { idle with phase := .header } with responses := [feedResponse none] } := rfl

/-- Vector P2, the last byte. -/
theorem test_feed_verdict : exec (.feed 0xEA) (parsing p2High)
    = .next { start with responses := [feedResponse (some ⟨0, 2, 3, 0, []⟩)] } := rfl

theorem test_crcSeed : exec .crcSeed { start with crcAcc := 0x1234 }
    = .next { start with responses := [⟨.ok, none, some 0xFFFF, none, none⟩] } := rfl

/-- The example of R105. -/
theorem test_crcLoad : exec (.crcLoad 0x1234) start
    = .next { start with crcAcc := 0x1234, responses := [⟨.ok, none, some 0x1234, none, none⟩] } := rfl

/-- Vector G5. -/
theorem test_crcByte : exec (.crcByte 0x56) { start with crcAcc := 0x1234 }
    = .next { start with crcAcc := 0x4006, responses := [⟨.ok, none, some 0x4006, none, none⟩] } := rfl

/-- Vector G3. -/
theorem test_crcSalt_found : exec (.crcSalt 0) { start with crcAcc := 0x62C4 }
    = .next { start with crcAcc := 0x92DB, responses := [⟨.ok, none, some 0x92DB, some true, some 0x32⟩] } := rfl

/-- Vector G4. -/
theorem test_crcSalt_notFound : exec (.crcSalt 1) { start with crcAcc := 0x62C4 }
    = .next { start with crcAcc := 0x62C4, responses := [⟨.ok, none, some 0x62C4, some false, none⟩] } := rfl

/-- Vector G1. -/
theorem test_lookup_found : exec (.lookup 0) start
    = .next { start with responses := [⟨.ok, none, none, some true, some 0x32⟩] } := rfl

/-- Vector G2. -/
theorem test_lookup_notFound : exec (.lookup 1) start
    = .next { start with responses := [⟨.ok, none, none, some false, none⟩] } := rfl

/-- The frame of R190's example. -/
theorem test_sendHb_frame : hbFrame exampleConfig 0 1 1
    = [0xFD, 0x09, 0x00, 0x00, 0x00, 0x01, 0x01, 0x00, 0x00, 0x00, 0x00, 0x00, 0x00, 0x00, 0x06, 0x08, 0x00, 0x00, 0x03,
      0x6B, 0xE3] := by decide

/-- R196: a fault after three bytes. -/
theorem test_sendHb_fault : exec (.sendHb 0 1 1) { start with sinkAnswers := [.accepted 3, .fault] }
    = .next { start with
      sinkOffers := [hbFrame exampleConfig 0 1 1, (hbFrame exampleConfig 0 1 1).drop 3]
      sinkBytes := [0xFD, 0x09, 0x00], responses := [⟨.sendFail, none, none, none, none⟩] } := rfl

/-- R73: an illegal word through the step, right after reset. -/
theorem test_step_illegal : step (State.reset.withFetchWord 32 0x80000000)
    = .next { State.reset with responses := [⟨.illegal, none, none, none, none⟩] } := rfl

/-- R244: a read of no byte times out, with nothing fed. -/
theorem test_reader_times_out : awaitMessage 0 [.bytes []] start = (.timedOut, start) := rfl

/-! ## Witnesses: states and operands that meet the hypotheses of each statement -/

theorem idle_inv : idle.Inv exampleConfig := ⟨rfl, rfl, trivial, fun _ => rfl⟩

/-- The invariant of a parser of the example in a phase other than WaitSync. -/
theorem inv_of_phase {p : Parser} (hp : p.pay.length = 9 ∧ p.hdrLen = (if p.v2 then hdrLenV2 else hdrLenV1) ∧ p.phase ≠ .waitSync)
    (hi : p.PhaseInv exampleConfig) : p.Inv exampleConfig := ⟨hp.1, hp.2.1, hi, fun h => absurd h hp.2.2⟩

theorem inv_header {p : Parser} (hp : p.phase = .header)
    (h : p.hdrIdx < p.hdrLen) : p.PhaseInv exampleConfig := by
  unfold Parser.PhaseInv
  rw [hp]
  exact h

theorem inv_payload {p : Parser} (hp : p.phase = .payload)
    (h : p.hdrIdx = p.hdrLen ∧ 1 ≤ p.payLen ∧ p.payLen ≤ exampleConfig.payloadCap ∧ p.payIdx < p.payLen) : p.PhaseInv exampleConfig := by
  unfold Parser.PhaseInv
  rw [hp]
  exact h

theorem inv_checksumLow {p : Parser} (hp : p.phase = .checksumLow)
    (h : p.FrameHeld exampleConfig) : p.PhaseInv exampleConfig := by
  unfold Parser.PhaseInv
  rw [hp]
  exact h

theorem inv_checksumHigh {p : Parser} (hp : p.phase = .checksumHigh)
    (h : p.FrameHeld exampleConfig ∧ p.rxCk.extractLsb' 8 8 = 0) : p.PhaseInv exampleConfig := by
  unfold Parser.PhaseInv
  rw [hp]
  exact h

theorem inv_signature {p : Parser} (hp : p.phase = .signature)
    (h : p.FrameHeld exampleConfig ∧ p.v2 = true ∧ p.signed = true ∧ p.sigCnt < sigLen) : p.PhaseInv exampleConfig := by
  unfold Parser.PhaseInv
  rw [hp]
  exact h

theorem v1Header_inv_first : (v1Header 0 0).Inv exampleConfig := inv_of_phase (by decide) (inv_header rfl (by decide))
theorem v1Header_inv_beforeLast : (v1Header 3 0).Inv exampleConfig := inv_of_phase (by decide) (inv_header rfl (by decide))
theorem v1Header_inv_last : (v1Header 4 9).Inv exampleConfig := inv_of_phase (by decide) (inv_header rfl (by decide))
theorem v1Header_inv_empty : (v1Header 4 0).Inv exampleConfig := inv_of_phase (by decide) (inv_header rfl (by decide))
theorem v1Header_inv_oversize : (v1Header 4 10).Inv exampleConfig := inv_of_phase (by decide) (inv_header rfl (by decide))
theorem v2Header_inv_beforeLast : (v2Header 7 0 1).Inv exampleConfig := inv_of_phase (by decide) (inv_header rfl (by decide))
theorem v2Header_inv_last : (v2Header 8 9 1).Inv exampleConfig := inv_of_phase (by decide) (inv_header rfl (by decide))
theorem v2Header_inv_oversize : (v2Header 8 10 1).Inv exampleConfig := inv_of_phase (by decide) (inv_header rfl (by decide))
theorem inPayload_inv_first : (inPayload 0).Inv exampleConfig := inv_of_phase (by decide) (inv_payload rfl (by decide))
theorem inPayload_inv_last : (inPayload 1).Inv exampleConfig := inv_of_phase (by decide) (inv_payload rfl (by decide))
theorem p2Low_inv : p2Low.Inv exampleConfig := inv_of_phase (by decide) (inv_checksumLow rfl (by decide))
theorem p2High_inv : p2High.Inv exampleConfig := inv_of_phase (by decide) (inv_checksumHigh rfl (by decide))
theorem signedHigh_inv : signedHigh.Inv exampleConfig := inv_of_phase (by decide) (inv_checksumHigh rfl (by decide))
theorem inTrailer_inv_first : (inTrailer 0).Inv exampleConfig := inv_of_phase (by decide) (inv_signature rfl (by decide))
theorem inTrailer_inv_beforeLast : (inTrailer 11).Inv exampleConfig := inv_of_phase (by decide) (inv_signature rfl (by decide))
theorem inTrailer_inv_last : (inTrailer 12).Inv exampleConfig := inv_of_phase (by decide) (inv_signature rfl (by decide))

theorem start_inv : start.Inv := ⟨idle_inv, trivial⟩

theorem witness_EncodeOfDecode : decode 0x7007FFBE = .ok (.sendHb 7 255 190) := by decide

theorem witness_OperandsAreSlicesOfTheWord :
    decode 0x00000000 = .ok .reset ∧ decode 0x100000FF = .ok (.feed 0xFF) ∧ decode 0x20000000 = .ok .crcSeed
      ∧ decode 0x3000FFFF = .ok (.crcLoad 0xFFFF) ∧ decode 0x400000FF = .ok (.crcByte 0xFF)
      ∧ decode 0x50FFFFFF = .ok (.crcSalt 0xFFFFFF) ∧ decode 0x60FFFFFF = .ok (.lookup 0xFFFFFF)
      ∧ decode 0x70FFFFFF = .ok (.sendHb 0xFF 0xFF 0xFF) := by decide

theorem illegal_reservedOpcode : IllegalWord 0x80000000 := by unfold IllegalWord; decide
theorem illegal_rsv : IllegalWord 0x01000000 := by unfold IllegalWord; decide
theorem illegal_reset : IllegalWord 0x00000001 := by unfold IllegalWord; decide
theorem illegal_feed : IllegalWord 0x10000100 := by unfold IllegalWord; decide
theorem illegal_crcSeed : IllegalWord 0x20800000 := by unfold IllegalWord; decide
theorem illegal_crcLoad : IllegalWord 0x30010000 := by unfold IllegalWord; decide
theorem illegal_crcByte : IllegalWord 0x40000100 := by unfold IllegalWord; decide
theorem legal_sendHb : ¬ IllegalWord 0x70FFFFFF := by unfold IllegalWord; decide

theorem witness_IllegalWordAnswersIllegalAndChangesNothing :
    start.sending = none ∧ { start with cmds := [0x80000000] }.cmds = [0x80000000] ∧ IllegalWord 0x80000000 :=
  ⟨rfl, rfl, illegal_reservedOpcode⟩

/-- Each operand just above its field's range, for SEND_HB in each place. -/
theorem witness_AssemblerLinesInRangeOnly :
    ([0xFF] : List Byte) ≠ [] ∧ 0xFF < 0x100 ∧ 0xFFFF < 0x10000 ∧ 0xFFFFFF < 0x1000000
      ∧ (0xFF < 256 ∨ 0xFF < 0 ∨ 0xFF < 0) ∧ (0xFF < 255 ∨ 0xFF < 256 ∨ 0xFF < 0) ∧ (0xFF < 0 ∨ 0xFF < 0 ∨ 0xFF < 256)
      ∧ 256 ∈ [0, 256] := by decide

theorem witness_StepRunsTheIssuedCommand :
    start.sending = none ∧ { start with cmds := [0x20000000, 0] }.cmds = [0x20000000, 0]
      ∧ decode 0x20000000 = .ok .crcSeed ∧ start.cmds = [] := by decide

theorem witness_FetchWordIsRunNext : decode 0x60000001 = .ok (.lookup 1) := by decide

/-- An open transfer that goes on open, one that ends well, and one that fails. -/
theorem witness_OpenTransferTakesNoCommand :
    step { start with sending := some [0x6B, 0xE3], sinkAnswers := [.accepted 1] }
        = .next { start with sending := some [0xE3], sinkOffers := [[0x6B, 0xE3]], sinkBytes := [0x6B] }
      ∧ step { start with sending := some [0xE3], sinkAnswers := [.accepted 1] }
        = .next { start with sinkOffers := [[0xE3]], sinkBytes := [0xE3], responses := [⟨.ok, none, none, none, none⟩] }
      ∧ step { start with sending := some [0xE3], sinkAnswers := [.fault] }
        = .next { start with sinkOffers := [[0xE3]], responses := [⟨.sendFail, none, none, none, none⟩] } := ⟨rfl, rfl, rfl⟩

theorem witness_DifferentSaltsGiveDifferentChecksums : crcStep 0x62C4 0x32 = crcStep 0x62C4 0x32 := rfl

theorem witness_CrcSeedLoadsTheSeed :
    ((0x20000001 : CmdWord) >>> 28).toNat = 2 ∧ (0x20000001 : CmdWord) ≠ 0x20000000 := by decide

theorem witness_CrcLoadLoadsItsOperand :
    ((0x30010000 : CmdWord) >>> 28).toNat = 3 ∧ ((0x30010000 : CmdWord) >>> 16).toNat % 2 ^ 12 ≠ 0
      ∧ ((0x38000000 : CmdWord) >>> 28).toNat = 3 ∧ ((0x38000000 : CmdWord) >>> 16).toNat % 2 ^ 12 ≠ 0 := by decide

theorem witness_CrcByteFoldsItsOperand :
    ((0x40000100 : CmdWord) >>> 28).toNat = 4 ∧ ((0x40000100 : CmdWord) >>> 8).toNat % 2 ^ 20 ≠ 0
      ∧ ((0x48000000 : CmdWord) >>> 28).toNat = 4 ∧ ((0x48000000 : CmdWord) >>> 8).toNat % 2 ^ 20 ≠ 0 := by decide

theorem witness_LookupAnswersTheRegistry :
    ((0x61000000 : CmdWord) >>> 28).toNat = 6 ∧ ((0x61000000 : CmdWord) >>> 24).toNat % 2 ^ 4 ≠ 0
      ∧ start.cfg.registry.lookup 0 = some 0x32 ∧ start.cfg.registry.lookup 0xFFFFFF = none := by decide

theorem witness_CrcSaltFoldsARegisteredSalt :
    (((0x58000000 : CmdWord) >>> 28).toNat = 5 ∧ ((0x58000000 : CmdWord) >>> 24).toNat % 2 ^ 4 ≠ 0
      ∧ start.cfg.registry.lookup 0 = some 0x32 ∧ start.cfg.registry.lookup 1 = none)
      ∧ exec (.crcSalt 0) start = .next { start with
        crcAcc := 0x1D16, responses := [⟨.ok, none, some 0x1D16, some true, some 0x32⟩] }
      ∧ exec (.crcByte 0x32) start = .next { start with
        crcAcc := 0x1D16, responses := [⟨.ok, none, some 0x1D16, none, none⟩] } := ⟨by decide, rfl, rfl⟩

theorem witness_FeedParsesOneByte :
    ((0x10000100 : CmdWord) >>> 28).toNat = 1 ∧ ((0x10000100 : CmdWord) >>> 8).toNat % 2 ^ 20 ≠ 0
      ∧ ((0x18000000 : CmdWord) >>> 28).toNat = 1 ∧ ((0x18000000 : CmdWord) >>> 8).toNat % 2 ^ 20 ≠ 0 := by decide

theorem witness_ResetReinitializesTheParser :
    (((0x00000001 : CmdWord) >>> 28).toNat = 0 ∧ (0x00000001 : CmdWord) ≠ 0)
      ∧ start.parser.Inv start.cfg ∧ start.parser.phase = .waitSync
      ∧ exec .reset start = .next { start with responses := [⟨.ok, none, none, none, none⟩] } :=
  ⟨by decide, idle_inv, rfl, rfl⟩

theorem witness_WaitSyncFindsTheSyncByte : start.parser.phase = .waitSync := rfl

theorem witness_HeaderByteIsStoredAtTheCursor :
    ((v1Header 0 0).Inv exampleConfig ∧ (v1Header 0 0).phase = .header ∧ (v1Header 0 0).hdrIdx + 1 ≠ (v1Header 0 0).hdrLen)
      ∧ ((v1Header 3 0).Inv exampleConfig ∧ (v1Header 3 0).phase = .header
        ∧ (v1Header 3 0).hdrIdx + 1 ≠ (v1Header 3 0).hdrLen)
      ∧ ((v2Header 7 0 1).Inv exampleConfig ∧ (v2Header 7 0 1).phase = .header
        ∧ (v2Header 7 0 1).hdrIdx + 1 ≠ (v2Header 7 0 1).hdrLen) :=
  ⟨⟨v1Header_inv_first, rfl, by decide⟩, ⟨v1Header_inv_beforeLast, rfl, by decide⟩, v2Header_inv_beforeLast, rfl, by decide⟩

theorem witness_OversizeHeaderAborts :
    ((v1Header 4 10).Inv exampleConfig ∧ (v1Header 4 10).phase = .header
        ∧ (v1Header 4 10).hdrIdx + 1 = (v1Header 4 10).hdrLen
        ∧ exampleConfig.payloadCap.toNat < (v1Header 4 10).hdr[0].toNat)
      ∧ ((v2Header 8 10 1).Inv exampleConfig ∧ (v2Header 8 10 1).phase = .header
        ∧ (v2Header 8 10 1).hdrIdx + 1 = (v2Header 8 10 1).hdrLen
        ∧ exampleConfig.payloadCap.toNat < (v2Header 8 10 1).hdr[0].toNat)
      ∧ { exampleConfig with payloadCap := 255 }.payloadCap = 255 :=
  ⟨⟨v1Header_inv_oversize, rfl, rfl, by decide⟩, ⟨v2Header_inv_oversize, rfl, rfl, by decide⟩, rfl⟩

theorem witness_HeaderCompletionReadsLengthAndFlag :
    ((v1Header 4 0).Inv exampleConfig ∧ (v1Header 4 0).phase = .header ∧ (v1Header 4 0).hdrIdx + 1 = (v1Header 4 0).hdrLen
        ∧ (v1Header 4 0).hdr[0].toNat ≤ exampleConfig.payloadCap.toNat ∧ (v1Header 4 0).v2 = false)
      ∧ ((v1Header 4 9).Inv exampleConfig ∧ (v1Header 4 9).phase = .header
        ∧ (v1Header 4 9).hdrIdx + 1 = (v1Header 4 9).hdrLen
        ∧ (v1Header 4 9).hdr[0].toNat ≤ exampleConfig.payloadCap.toNat)
      ∧ ((v2Header 8 9 1).Inv exampleConfig ∧ (v2Header 8 9 1).phase = .header
        ∧ (v2Header 8 9 1).hdrIdx + 1 = (v2Header 8 9 1).hdrLen
        ∧ (v2Header 8 9 1).hdr[0].toNat ≤ exampleConfig.payloadCap.toNat ∧ (v2Header 8 9 1).v2 = true) :=
  ⟨⟨v1Header_inv_empty, rfl, rfl, by decide, rfl⟩, ⟨v1Header_inv_last, rfl, rfl, by decide⟩,
    v2Header_inv_last, rfl, rfl, by decide, rfl⟩

theorem witness_PayloadByteIsStoredAtTheCursor :
    ((inPayload 0).Inv exampleConfig ∧ (inPayload 0).phase = .payload)
      ∧ (inPayload 1).Inv exampleConfig ∧ (inPayload 1).phase = .payload
      ∧ (inPayload 1).payIdx + 1 = (inPayload 1).payLen := ⟨⟨inPayload_inv_first, rfl⟩, inPayload_inv_last, rfl, rfl⟩

theorem witness_ChecksumLowWritesTheWholeRegister : p2Low.phase = .checksumLow := rfl

theorem witness_ChecksumHighCompletesTheChecksum :
    (signedHigh.Inv exampleConfig ∧ signedHigh.phase = .checksumHigh ∧ signedHigh.v2 = true ∧ signedHigh.signed = true)
      ∧ p2High.Inv exampleConfig ∧ p2High.phase = .checksumHigh ∧ ¬ (p2High.v2 = true ∧ p2High.signed = true) :=
  ⟨⟨signedHigh_inv, rfl, rfl, rfl⟩, p2High_inv, rfl, by decide⟩

theorem witness_SignatureBytesAreOnlyCounted :
    (inTrailer 0).phase = .signature ∧ (inTrailer 0).sigCnt + 1 ≠ 13 ∧ (inTrailer 11).sigCnt + 1 ≠ 13
      ∧ (inTrailer 12).phase = .signature ∧ (inTrailer 12).sigCnt + 1 = 13 := by decide

/-- A v2 and a v1 parser with the fields the rule names. -/
theorem witness_FinalizeAcceptsExactlyRegisteredMatches :
    ((inTrailer 12).v2 = true ∧ (inTrailer 12).hdr[4] = 1 ∧ (inTrailer 12).hdr[5] = 1
        ∧ (0 : MsgId).toNat = (inTrailer 12).hdr[6].toNat + 2 ^ 8 * (inTrailer 12).hdr[7].toNat
          + 2 ^ 16 * (inTrailer 12).hdr[8].toNat)
      ∧ p2High.v2 = false ∧ p2High.hdr[2] = 2 ∧ p2High.hdr[3] = 3 ∧ (0 : MsgId).toNat = p2High.hdr[4].toNat := by decide

theorem witness_PhaseGraph :
    start.parser.Inv start.cfg ∧ (v1Header 0 0).Inv exampleConfig ∧ (v1Header 4 10).Inv exampleConfig
      ∧ (v1Header 4 9).Inv exampleConfig ∧ (v1Header 4 0).Inv exampleConfig ∧ (inPayload 0).Inv exampleConfig
      ∧ (inPayload 1).Inv exampleConfig ∧ p2Low.Inv exampleConfig ∧ p2High.Inv exampleConfig
      ∧ signedHigh.Inv exampleConfig ∧ (inTrailer 0).Inv exampleConfig ∧ (inTrailer 12).Inv exampleConfig :=
  ⟨idle_inv, v1Header_inv_first, v1Header_inv_oversize, v1Header_inv_last, v1Header_inv_empty, inPayload_inv_first,
    inPayload_inv_last, p2Low_inv, p2High_inv, signedHigh_inv, inTrailer_inv_first, inTrailer_inv_last⟩

/-- Vectors P2 and, with the correct checksum, P13: both ways to a message. -/
theorem witness_MessageOnlyFromACompletedFrame :
    (p2High.Inv exampleConfig ∧ (finalize exampleConfig (withChecksumHigh p2High 0xEA)).2 = some ⟨0, 2, 3, 0, []⟩)
      ∧ (inTrailer 12).Inv exampleConfig ∧ (finalize exampleConfig (inTrailer 12)).2 = some ⟨0, 1, 1, 0, []⟩ :=
  ⟨⟨p2High_inv, rfl⟩, inTrailer_inv_last, rfl⟩

theorem atFrameEnd_oversize : (v1Header 4 10).AtFrameEnd exampleConfig := .inl (by decide)
theorem atFrameEnd_unsigned : p2High.AtFrameEnd exampleConfig := .inr (.inl (by decide))
theorem atFrameEnd_trailer : (inTrailer 12).AtFrameEnd exampleConfig := .inr (.inr (by decide))

/-- The last header byte with the greatest length that fits is no frame end. -/
theorem not_atFrameEnd_header : ¬ (v1Header 4 9).AtFrameEnd exampleConfig := by unfold Parser.AtFrameEnd; decide
theorem not_atFrameEnd_payload : ¬ (inPayload 1).AtFrameEnd exampleConfig := by unfold Parser.AtFrameEnd; decide
theorem not_atFrameEnd_low : ¬ p2Low.AtFrameEnd exampleConfig := by unfold Parser.AtFrameEnd; decide
theorem not_atFrameEnd_signed : ¬ signedHigh.AtFrameEnd exampleConfig := by unfold Parser.AtFrameEnd; decide
theorem not_atFrameEnd_trailer : ¬ (inTrailer 11).AtFrameEnd exampleConfig := by unfold Parser.AtFrameEnd; decide

/-- Both sides of each frame end, and a payload and a low checksum byte. -/
theorem witness_SyncBytesInsideAFrameAreData :
    ((v1Header 4 10).Inv exampleConfig ∧ (v1Header 4 10).AtFrameEnd exampleConfig)
      ∧ (p2High.Inv exampleConfig ∧ p2High.phase = .checksumHigh ∧ p2High.AtFrameEnd exampleConfig)
      ∧ ((inTrailer 12).Inv exampleConfig ∧ (inTrailer 12).AtFrameEnd exampleConfig)
      ∧ ((v1Header 4 9).Inv exampleConfig ∧ ¬ (v1Header 4 9).AtFrameEnd exampleConfig)
      ∧ ((inPayload 1).Inv exampleConfig ∧ ¬ (inPayload 1).AtFrameEnd exampleConfig)
      ∧ (p2Low.Inv exampleConfig ∧ ¬ p2Low.AtFrameEnd exampleConfig)
      ∧ (signedHigh.Inv exampleConfig ∧ ¬ signedHigh.AtFrameEnd exampleConfig)
      ∧ (inTrailer 11).Inv exampleConfig ∧ ¬ (inTrailer 11).AtFrameEnd exampleConfig :=
  ⟨⟨v1Header_inv_oversize, atFrameEnd_oversize⟩, ⟨p2High_inv, rfl, atFrameEnd_unsigned⟩,
    ⟨inTrailer_inv_last, atFrameEnd_trailer⟩, ⟨v1Header_inv_last, not_atFrameEnd_header⟩,
    ⟨inPayload_inv_last, not_atFrameEnd_payload⟩, ⟨p2Low_inv, not_atFrameEnd_low⟩,
    ⟨signedHigh_inv, not_atFrameEnd_signed⟩, inTrailer_inv_beforeLast, not_atFrameEnd_trailer⟩

/-- Both flags change: v2 at the sync byte 0xFD, signed at a header with incompat 0x01, and both at a resynchronization. -/
theorem witness_FlagsAreWrittenOnlyByTheirRules :
    (start.parser.Inv start.cfg ∧ ∃ t, exec (.feed 0xFD) start = .next t ∧ t.parser.v2 ≠ start.parser.v2)
      ∧ ((v2Header 8 9 1).Inv exampleConfig
        ∧ ∃ t, exec (.feed 0) (parsing (v2Header 8 9 1)) = .next t ∧ t.parser.signed ≠ (v2Header 8 9 1).signed)
      ∧ ((inTrailer 12).Inv exampleConfig
        ∧ ∃ t, exec (.feed 0) (parsing (inTrailer 12)) = .next t
          ∧ t.parser.v2 ≠ (inTrailer 12).v2 ∧ t.parser.signed ≠ (inTrailer 12).signed)
      ∧ ∃ t, exec .crcSeed start = .next t :=
  ⟨⟨idle_inv, _, rfl, by decide⟩, ⟨v2Header_inv_last, _, rfl, by decide⟩,
    ⟨inTrailer_inv_last, _, rfl, by decide, by decide⟩, _, rfl⟩

/-- A step that runs a command, and one that goes on with an open transfer. -/
theorem witness_StepKeepsTheInvariant :
    (start.Inv ∧ step start = .next start)
      ∧ ∃ s t : State, s.Inv ∧ s.sending ≠ none ∧ step s = .next t :=
  ⟨⟨start_inv, rfl⟩, { start with sending := some ((hbFrame exampleConfig 0 1 1).drop 3) }, _,
    ⟨idle_inv, by decide, 0, 1, 1, 3, rfl⟩, by decide, rfl⟩

/-- A run that has issued a command and taken it: the parser is in Header. -/
theorem witness_ReachableBufferWritesAreInRange : ∃ s, Reachable exampleConfig s ∧ s.parser.phase = .header :=
  ⟨_, .step { start with cmds := [0x100000FE] } _ (.input start [0x100000FE] [] .powerOn) rfl, rfl⟩

/-- A parser in WaitSync with other values in its fields, and two steps from it. -/
theorem witness_NoResponseReadsAResetValue :
    { idle with payIdx := 7, sigCnt := 9, rxCk := 1 }.phase = .waitSync
      ∧ { idle with payIdx := 7, sigCnt := 9, rxCk := 1 }.pay.length = exampleConfig.payloadCap.toNat
      ∧ ∃ t, runSteps 2 { State.powerOn exampleConfig with
        parser := { idle with payIdx := 7, sigCnt := 9, rxCk := 1 }, cmds := [0x100000FE, 0x10000000], sinkAnswers := [] }
          = .next t := ⟨rfl, rfl, _, rfl⟩

/-- The shortest and the longest payload. -/
theorem witness_V1FrameYieldsItsVerdict :
    start.parser.phase = .waitSync ∧ start.parser.pay.length = start.cfg.payloadCap.toNat
      ∧ ([] : List Byte).length ≤ start.cfg.payloadCap.toNat
      ∧ ([1, 2, 3, 4, 5, 6, 7, 8, 9] : List Byte).length ≤ start.cfg.payloadCap.toNat := by decide

/-- Vector P10: incompat 0x02 is unsigned. -/
theorem witness_UnsignedV2FrameYieldsItsVerdict :
    start.parser.phase = .waitSync ∧ start.parser.pay.length = start.cfg.payloadCap.toNat
      ∧ ([] : List Byte).length ≤ start.cfg.payloadCap.toNat
      ∧ ([1, 2, 3, 4, 5, 6, 7, 8, 9] : List Byte).length ≤ start.cfg.payloadCap.toNat
      ∧ (0x02 : Byte).getLsbD 0 = false ∧ (0xFE : Byte).getLsbD 0 = false := by decide

/-- Vector P11: incompat 0xFD is signed. -/
theorem witness_SignedV2FrameSkipsItsTrailer :
    start.parser.phase = .waitSync ∧ start.parser.pay.length = start.cfg.payloadCap.toNat
      ∧ ([] : List Byte).length ≤ start.cfg.payloadCap.toNat
      ∧ ([1, 2, 3, 4, 5, 6, 7, 8, 9] : List Byte).length ≤ start.cfg.payloadCap.toNat
      ∧ (0xFD : Byte).getLsbD 0 = true ∧ (List.replicate 13 (0xAA : Byte)).length = 13 := by decide

theorem witness_OversizeFrameConsumesItsWholeHeader :
    start.parser.phase = .waitSync ∧ start.cfg.payloadCap.toNat < (10 : Byte).toNat
      ∧ ([0xFE, 1, 1, 0] : List Byte).length = 4 ∧ ([0, 0xFD, 0, 1, 1, 0, 0, 0] : List Byte).length = 8 := by decide

theorem witness_HeartbeatFrameLayout : exampleConfig.registry.lookup exampleConfig.hbMsgid = some 0x32 := by decide

/-- Answers as in vector H3, and one acceptance of the whole frame. -/
theorem witness_SendHbDeliversTheWholeFrame :
    (progressing [.accepted 5, .interrupted] = true ∧ acceptedTotal [.accepted 5, .interrupted] + 16 = 21
        ∧ { start with sinkAnswers := [.accepted 5, .interrupted, .accepted 16, .fault] }.sinkAnswers
          = [.accepted 5, .interrupted] ++ .accepted 16 :: [.fault])
      ∧ progressing [] = true ∧ acceptedTotal [] + 21 = 21
      ∧ { start with sinkAnswers := [.accepted 21] }.sinkAnswers = [] ++ .accepted 21 :: [] := by decide

theorem witness_SendHbFaultKeepsThePrefix :
    (progressing [.accepted 20] = true ∧ acceptedTotal [.accepted 20] < 21
        ∧ { start with sinkAnswers := [.accepted 20, .fault, .accepted 21] }.sinkAnswers
          = [.accepted 20] ++ .fault :: [.accepted 21])
      ∧ progressing [] = true ∧ acceptedTotal [] < 21 := by decide

theorem witness_SendHbWithoutAFinalAnswerStaysOpen :
    (progressing start.sinkAnswers = true ∧ acceptedTotal start.sinkAnswers < 21)
      ∧ progressing [.interrupted, .accepted 20] = true ∧ acceptedTotal [.interrupted, .accepted 20] < 21 := by decide

/-- A SEND_HB that ends and one that stays open: the premise of the three statements about any SEND_HB that goes on. -/
theorem witness_sendHb_next :
    (∃ t, exec (.sendHb 0 1 1) { start with sinkAnswers := [.accepted 21] } = .next t ∧ t.sending = none)
      ∧ ∃ t, exec (.sendHb 0 1 1) { start with sinkAnswers := [.accepted 3] } = .next t ∧ t.sending ≠ none :=
  ⟨⟨_, rfl, rfl⟩, _, rfl, by decide⟩

theorem witness_SendHbNeitherReadsNorWritesBlockState :
    ∃ t, exec (.sendHb 0 1 1) { parsing p2High with sinkAnswers := [.accepted 21] } = .next t := ⟨_, rfl⟩

theorem witness_SinkHoldsABeginningOfTheFrame :
    ∃ t, exec (.sendHb 0 1 1) { start with sinkAnswers := [.accepted 1, .fault] } = .next t := ⟨_, rfl⟩

theorem witness_OpenTransferResumesWhereItStood :
    ∃ t, exec (.sendHb 0 1 1) { start with sinkAnswers := [.accepted 20] } = .next t ∧ t.sending ≠ none :=
  ⟨_, rfl, by decide⟩

/-- PAYLOAD_CAP 9 is the least capacity the statement allows. -/
theorem witness_HeartbeatParsesBack :
    start.parser.phase = .waitSync ∧ start.parser.pay.length = start.cfg.payloadCap.toNat
      ∧ 9 ≤ start.cfg.payloadCap.toNat := by decide

/-- A configuration that passes every check, and one that fails one. -/
theorem witness_ConfigurationIsCheckedAndFixed :
    ((goodRaw.registry.lookup goodRaw.hbMsgid).isSome = true ∧ goodRaw.hbPayload.length = 9 ∧ goodRaw.payloadCap ≤ 255
        ∧ (∀ e ∈ goodRaw.registry, e.1 < 2 ^ 24) ∧ (∀ e ∈ goodRaw.registry, e.2 < 2 ^ 8))
      ∧ ¬ ({ goodRaw with payloadCap := 256 }.payloadCap ≤ 255)
      ∧ step start = .next start := ⟨by decide, by decide, rfl⟩

/-- Each kind of command goes on; a SEND_HB with no answer at hand gives no response yet; an illegal word. -/
theorem witness_ResponseFieldsByCommand :
    (∃ t, exec (.crcSalt 0) start = .next t ∧ opNumber (.crcSalt 0) = 5)
      ∧ (∃ t, exec (.sendHb 0 1 1) start = .next t ∧ t.responses = start.responses)
      ∧ (start.sending = none ∧ { start with cmds := [0x61000000] }.cmds = [0x61000000]
        ∧ decode 0x61000000 = .error .reservedField) := ⟨⟨_, rfl, rfl⟩, ⟨_, rfl, rfl⟩, by decide⟩

theorem witness_EachCommandWritesOnlyItsOwnState :
    (∃ t, exec (.feed 0xFE) start = .next t) ∧ ∃ t, exec (.crcLoad 1) start = .next t := ⟨⟨_, rfl⟩, _, rfl⟩

theorem breaks_nothing_accepted : BreaksTheLaw 21 [.accepted 20, .accepted 0] := ⟨[.accepted 20], [], 0, by decide⟩
theorem breaks_too_many : BreaksTheLaw 21 [.interrupted, .accepted 22] := ⟨[.interrupted], [], 22, by decide⟩
theorem breaks_open : BreaksTheLaw 2 [.accepted 1, .accepted 2, .fault] := ⟨[.accepted 1], [.fault], 2, by decide⟩

/-- No acceptance at all breaks no law, and neither does one of the whole frame at once. -/
theorem keeps_none : ¬ BreaksTheLaw 21 [] := by
  rintro ⟨before, later, n, h, -⟩
  simp at h

theorem keeps_whole : ¬ BreaksTheLaw 21 [.accepted 21] := by
  rw [← hbFrame_length exampleConfig 0 1 1, ← sinkSend_outOfRange_iff]
  decide

/-- A lawless and a lawful sink of a SEND_HB and of an open transfer, and an issued SEND_HB that stops. -/
theorem witness_OnlyALawlessSinkStopsTheBlock :
    opNumber .reset ≠ 7
      ∧ BreaksTheLaw 21 [.accepted 20, .accepted 0] ∧ BreaksTheLaw 21 [.interrupted, .accepted 22]
      ∧ ¬ BreaksTheLaw 21 start.sinkAnswers ∧ ¬ BreaksTheLaw 21 [.accepted 21]
      ∧ ({ start with sending := some [0x6B, 0xE3] }.sending = some [0x6B, 0xE3]
        ∧ BreaksTheLaw ([0x6B, 0xE3] : List Byte).length [.accepted 1, .accepted 2, .fault])
      ∧ start.sending = none
      ∧ step { start with cmds := [0x70000101], sinkAnswers := [.accepted 0] } = .fault .sinkAnswerOutOfRange :=
  ⟨by decide, breaks_nothing_accepted, breaks_too_many, keeps_none, keeps_whole, ⟨rfl, breaks_open⟩, rfl, rfl⟩

theorem witness_PlacementIsNeverRead : step { start with cmds := [0x20000000] }
    = .next { start with responses := [⟨.ok, none, some 0xFFFF, none, none⟩] } := rfl

/-- Vector P2's last two bytes, with a byte after them that is not fed; split between the two, the first alone finds nothing. -/
theorem witness_ReaderStopsAtTheTargetMessage :
    feedBuffer 0 [0xA7, 0xEA, 0xFE] (parsing p2Low)
        = (some ⟨0, 2, 3, 0, []⟩, { start with
          responses := [feedResponse none, feedResponse (some ⟨0, 2, 3, 0, []⟩)] })
      ∧ ([0xA7, 0xEA] : List Byte) = [0xA7] ++ [0xEA] ∧ ([0xEA] : List Byte) ≠ []
      ∧ feedBuffer 0 [0xA7] (parsing p2Low)
        = (none, { parsing p2High with responses := [feedResponse none] }) := ⟨rfl, rfl, by decide, rfl⟩

end Sys2Proof.Tests
end

section
/-! PROOFS. The decoder read backwards: which fields a word has when it decodes to a given command (30_encoding.md R72), the
illegal words of R73 in terms of those fields, and what a step does with an illegal word. -/

namespace Sys2Proof

/-- The fields of a word of the command i (30_encoding.md R71, R72): its operation, the unused operand bits at 0, and the
operands cut out of the word. -/
def HasFields (w : CmdWord) : Instr → Prop
  | .reset => opField w = 0x0 ∧ idOperand w = 0
  | .feed b => opField w = 0x1 ∧ aboveByte w = 0 ∧ byte0 w = b
  | .crcSeed => opField w = 0x2 ∧ idOperand w = 0
  | .crcLoad v => opField w = 0x3 ∧ byte2 w = 0 ∧ checksumOperand w = v
  | .crcByte b => opField w = 0x4 ∧ aboveByte w = 0 ∧ byte0 w = b
  | .crcSalt id => opField w = 0x5 ∧ idOperand w = id
  | .lookup id => opField w = 0x6 ∧ idOperand w = id
  | .sendHb seq sysid compid => opField w = 0x7 ∧ byte2 w = seq ∧ byte1 w = sysid ∧ byte0 w = compid

theorem ifUnusedZero_eq_ok_iff {c : Bool} {i j : Instr} : ifUnusedZero c i = .ok j ↔ c = true ∧ i = j := by
  cases c <;> simp [ifUnusedZero]

/-- What a word that decodes to i looks like, and that nothing more is asked of it (30_encoding.md R74). -/
theorem decode_eq_ok_iff {w : CmdWord} {i : Instr} : decode w = .ok i ↔ rsvField w = 0 ∧ HasFields w i := by
  by_cases hrsv : rsvField w = 0
  case neg => simp only [decode, ne_eq, hrsv, not_false_eq_true, if_true, reduceCtorEq, false_and]
  case pos =>
    simp only [decode, ne_eq, hrsv, not_true_eq_false, if_false, true_and]
    split
    case h_9 => cases i <;> simp_all [HasFields]
    all_goals
      rename_i hop
      cases i <;> simp [HasFields, hop, ifUnusedZero_eq_ok_iff]

end Sys2Proof

namespace Sys2Proof.Machine

/-- R73's conditions on shifts and remainders of the word, as conditions on its fields. -/
theorem illegalWord_iff_fields (w : CmdWord) : IllegalWord w ↔
    8 ≤ (opField w).toNat ∨ rsvField w ≠ 0
      ∨ (opField w = 0x0 ∨ opField w = 0x2) ∧ idOperand w ≠ 0
      ∨ (opField w = 0x1 ∨ opField w = 0x4) ∧ aboveByte w ≠ 0
      ∨ opField w = 0x3 ∧ byte2 w ≠ 0 := by
  simp [IllegalWord, ← BitVec.toNat_inj, opField_toNat, rsvField_toNat, idOperand_toNat, aboveByte_toNat, byte2_toNat,
    Nat.shiftRight_eq_div_pow]

theorem not_illegalWord_of_hasFields {w : CmdWord} {i : Instr} (hrsv : rsvField w = 0) (h : HasFields w i) :
    ¬ IllegalWord w := by
  rw [illegalWord_iff_fields]
  cases i <;> simp_all [HasFields]

/-- The command of a word that is not illegal: its operation is one of the eight, and its operands are cut out of it. -/
theorem hasFields_of_not_illegalWord {w : CmdWord} (h : ¬ IllegalWord w) : rsvField w = 0 ∧ ∃ i, HasFields w i := by
  simp only [illegalWord_iff_fields, not_or, not_le, not_and, not_not] at h
  obtain ⟨hop, hrsv, hid, habove, hbyte2⟩ := h
  refine ⟨hrsv, ?_⟩
  have hops : opField w = 0x0 ∨ opField w = 0x1 ∨ opField w = 0x2 ∨ opField w = 0x3 ∨ opField w = 0x4
      ∨ opField w = 0x5 ∨ opField w = 0x6 ∨ opField w = 0x7 := by
    bv_omega
  obtain h | h | h | h | h | h | h | h := hops
  · exact ⟨.reset, h, hid (.inl h)⟩
  · exact ⟨.feed (byte0 w), h, habove (.inl h), rfl⟩
  · exact ⟨.crcSeed, h, hid (.inr h)⟩
  · exact ⟨.crcLoad (checksumOperand w), h, hbyte2 h, rfl⟩
  · exact ⟨.crcByte (byte0 w), h, habove (.inr h), rfl⟩
  · exact ⟨.crcSalt (idOperand w), h, rfl⟩
  · exact ⟨.lookup (idOperand w), h, rfl⟩
  · exact ⟨.sendHb (byte2 w) (byte1 w) (byte0 w), h, rfl, rfl, rfl⟩

/-- 30_encoding.md R73: legal and illegal words exclude each other, and there are no others. -/
theorem exists_decode_eq_ok_iff (w : CmdWord) : (∃ i, decode w = .ok i) ↔ ¬ IllegalWord w := by
  constructor
  · rintro ⟨i, hi⟩
    obtain ⟨hrsv, hfields⟩ := decode_eq_ok_iff.mp hi
    exact not_illegalWord_of_hasFields hrsv hfields
  · intro h
    obtain ⟨hrsv, i, hfields⟩ := hasFields_of_not_illegalWord h
    exact ⟨i, decode_eq_ok_iff.mpr ⟨hrsv, hfields⟩⟩

theorem exists_decode_eq_error_of_illegalWord {w : CmdWord} (h : IllegalWord w) : ∃ e, decode w = .error e := by
  cases hd : decode w with
  | error e => exact ⟨e, rfl⟩
  | ok i => exact absurd h ((exists_decode_eq_ok_iff w).mp ⟨i, hd⟩)

/-- With no write protocol open, a word that does not decode is taken and answered ILLEGAL (60_exceptions.md R224). -/
theorem step_of_decode_error {s : State} {w : CmdWord} {ws : List CmdWord} {e : Illegal} (hs : s.sending = none)
    (hc : s.cmds = w :: ws) (he : decode w = .error e) : step s = answerIllegal (s.withCmds ws) := by
  simp only [step, hs, hc, he]

end Sys2Proof.Machine
end

section
/-! PROOFS. The statements about the command encoding (30_encoding.md R71, R73), from the fields of a legal word. -/

namespace Sys2Proof.Proofs

open Sys2Proof Sys2Proof.Machine

/-- Settles O5: the fields that decoding reads are remainders of the word, and of the word shifted down to the field. -/
theorem operandsAreSlicesOfTheWord : Obligations.OperandsAreSlicesOfTheWord := by
  unfold Obligations.OperandsAreSlicesOfTheWord
  intro w i h
  obtain ⟨-, hfields⟩ := decode_eq_ok_iff.mp h
  cases i with
  | reset | crcSeed =>
    obtain ⟨-, hid⟩ := hfields
    show w.toNat % 2 ^ 24 = 0
    rw [← idOperand_toNat, hid]
    rfl
  | feed b | crcByte b =>
    obtain ⟨-, -, rfl⟩ := hfields
    exact byte0_toNat w
  | crcLoad v =>
    obtain ⟨-, -, rfl⟩ := hfields
    exact checksumOperand_toNat w
  | crcSalt id | lookup id =>
    obtain ⟨-, rfl⟩ := hfields
    exact idOperand_toNat w
  | sendHb seq sysid compid =>
    obtain ⟨-, rfl, rfl, rfl⟩ := hfields
    simp only [BitVec.toNat_ushiftRight, Nat.shiftRight_eq_div_pow]
    exact ⟨byte2_toNat w, byte1_toNat w, byte0_toNat w⟩

/-- Settles O6: a word that is not illegal has the fields of one of the eight commands, and an illegal one decodes to an
error, which the step answers with the bare status. -/
theorem illegalWordAnswersIllegalAndChangesNothing : Obligations.IllegalWordAnswersIllegalAndChangesNothing := by
  unfold Obligations.IllegalWordAnswersIllegalAndChangesNothing
  refine ⟨exists_decode_eq_ok_iff, fun s w ws hs hc hw => ?_⟩
  obtain ⟨e, he⟩ := exists_decode_eq_error_of_illegalWord hw
  calc step s = answerIllegal (s.withCmds ws) := step_of_decode_error hs hc he
    _ = .next { s with cmds := ws, responses := s.responses ++ [⟨.illegal, none, none, none, none⟩] } := rfl

end Sys2Proof.Proofs
end

section
/-! PROOFS. The words of the checksum commands: the word of a command as the bits its table row writes it with, the words of one
operation that leave an unused bit set, and a list of commands taken one at a time. -/

namespace Sys2Proof

/-- The operation above bit 28 and the operand below bit 24 (30_encoding.md R70), joined bit by bit. -/
theorem commandWord_eq_or (op : BitVec 4) (x : BitVec 24) : commandWord op x = op.setWidth 32 <<< 28 ||| x.setWidth 32 := by
  apply BitVec.eq_of_toNat_eq
  have hop := op.isLt
  have hfits : op.toNat <<< 28 < 2 ^ 32 := by
    rw [Nat.shiftLeft_eq]
    omega
  have hx : x.toNat < 2 ^ 28 := by omega
  rw [commandWord_toNat, BitVec.toNat_or, BitVec.toNat_shiftLeft, BitVec.toNat_setWidth_of_le (by decide),
    BitVec.toNat_setWidth_of_le (by decide), Nat.mod_eq_of_lt hfits, ← Nat.shiftLeft_add_eq_or_of_lt hx, Nat.shiftLeft_eq]

/-- The word of CRC_LOAD as R105 writes it. -/
theorem encode_crcLoad (v : Checksum) : encode (.crcLoad v) = 0x30000000 ||| v.setWidth 32 := by
  rw [encode, commandWord_eq_or, BitVec.setWidth_setWidth (by decide)]
  rfl

/-- The word of CRC_BYTE as R106 writes it. -/
theorem encode_crcByte (b : Byte) : encode (.crcByte b) = 0x40000000 ||| b.setWidth 32 := by
  rw [encode, commandWord_eq_or, BitVec.setWidth_setWidth (by decide)]
  rfl

end Sys2Proof

namespace Sys2Proof.Machine

/-- An operation that uses no operand bit: each of bits 27:0 makes its word illegal (30_encoding.md R72, R73). -/
theorem illegalWord_of_noOperand {w : CmdWord} (hop : (w >>> 28).toNat = 0 ∨ (w >>> 28).toNat = 2)
    (hbits : w.toNat % 2 ^ 28 ≠ 0) : IllegalWord w := by
  simp only [IllegalWord, BitVec.toNat_ushiftRight, Nat.shiftRight_eq_div_pow] at hop ⊢
  omega

/-- An operation that uses one operand byte: each of bits 27:8 makes its word illegal (30_encoding.md R72, R73). -/
theorem illegalWord_of_byteOperand {w : CmdWord} (hop : (w >>> 28).toNat = 1 ∨ (w >>> 28).toNat = 4)
    (hbits : (w >>> 8).toNat % 2 ^ 20 ≠ 0) : IllegalWord w := by
  simp only [IllegalWord, BitVec.toNat_ushiftRight, Nat.shiftRight_eq_div_pow] at hop hbits ⊢
  omega

/-- CRC_LOAD uses two operand bytes: each of bits 27:16 makes its word illegal (30_encoding.md R72, R73). -/
theorem illegalWord_of_checksumOperand {w : CmdWord} (hop : (w >>> 28).toNat = 3)
    (hbits : (w >>> 16).toNat % 2 ^ 12 ≠ 0) : IllegalWord w := by
  simp only [IllegalWord, BitVec.toNat_ushiftRight, Nat.shiftRight_eq_div_pow] at hop hbits ⊢
  omega

theorem runCommands_cons_of_next {i : Instr} {s t : State} (is : List Instr) (h : exec i s = .next t) :
    runCommands (i :: is) s = runCommands is t := by
  simp only [runCommands, h]

theorem exec_crcSeed (s : State) :
    exec .crcSeed s = .next ((s.withCrcAcc crcSeedValue).respond (accResponse crcSeedValue)) := rfl

theorem exec_crcLoad (v : Checksum) (s : State) :
    exec (.crcLoad v) s = .next ((s.withCrcAcc v).respond (accResponse v)) := rfl

theorem exec_crcByte (b : Byte) (s : State) :
    exec (.crcByte b) s = .next ((s.withCrcAcc (crcStep s.crcAcc b)).respond (accResponse (crcStep s.crcAcc b))) := rfl

/-- Folding in the accumulator's own low byte: the bits the step would mix in are all 0 (40_checksum.md R106). -/
theorem crcStep_lowByte (c : Checksum) : crcStep c (c.setWidth 8) = c >>> 8 := by
  have htmp0 : c.setWidth 8 ^^^ c.extractLsb' 0 8 = 0#8 := by
    rw [← BitVec.setWidth_eq_extractLsb' (by decide), BitVec.xor_self]
  simp [crcStep, htmp0]

/-- A sequence of CRC_BYTE is one fold over its bytes, with one response per byte (40_checksum.md R106). -/
theorem runCommands_crcBytes (bs : List Byte) : ∀ s : State, ∃ rs : List Response, rs.length = bs.length
    ∧ runCommands (bs.map .crcByte) s
      = .next { s with crcAcc := crcFold s.crcAcc bs, responses := s.responses ++ rs } := by
  induction bs with
  | nil => exact fun s => ⟨[], rfl, by simp [runCommands]⟩
  | cons b bs ih =>
    intro s
    obtain ⟨rs, hlength, hrun⟩ := ih ((s.withCrcAcc (crcStep s.crcAcc b)).respond (accResponse (crcStep s.crcAcc b)))
    refine ⟨accResponse (crcStep s.crcAcc b) :: rs, by simp [hlength], ?_⟩
    rw [List.map_cons, runCommands_cons_of_next _ (exec_crcByte b s), hrun]
    simp [State.respond, State.withCrcAcc]

end Sys2Proof.Machine
end

section
/-! PROOFS. The statements about CRC_SEED, CRC_LOAD and CRC_BYTE (40_checksum.md R104 to R106). -/

namespace Sys2Proof.Proofs

open Sys2Proof Sys2Proof.Machine

/-- Settles O18: the word is the encoder's, an illegal word sets a bit the operation leaves unused, and the sequence is the
fold by induction on its bytes. -/
theorem crcByteFoldsItsOperand : Obligations.CrcByteFoldsItsOperand := by
  unfold Obligations.CrcByteFoldsItsOperand
  refine ⟨fun b => ?word, fun w hop hbits => ?illegal, exec_crcByte, crcStep_lowByte, fun bs s => ?sequence⟩
  case word =>
    rw [← encode_crcByte]
    exact (Laws.RoundTrip.crcByte b).2
  case illegal => exact exists_decode_eq_error_of_illegalWord (illegalWord_of_byteOperand (.inr hop) hbits)
  case sequence =>
    obtain ⟨rs, hlength, hrun⟩ := runCommands_crcBytes bs s
    exact ⟨_, hrun, rfl, by simp [hlength], rfl⟩

/-- Settles O16: of the words of operation 2 only 0x20000000 has all bits 27:0 at 0. -/
theorem crcSeedLoadsTheSeed : Obligations.CrcSeedLoadsTheSeed := by
  unfold Obligations.CrcSeedLoadsTheSeed
  refine ⟨Laws.RoundTrip.crcSeed.2, fun w hop hw => ?illegal, exec_crcSeed⟩
  have hbits : w.toNat % 2 ^ 28 ≠ 0 := by
    intro h0
    apply hw
    apply BitVec.eq_of_toNat_eq
    rw [BitVec.toNat_ushiftRight, Nat.shiftRight_eq_div_pow] at hop
    show w.toNat = 0x20000000
    omega
  exact exists_decode_eq_error_of_illegalWord (illegalWord_of_noOperand (.inr hop) hbits)

/-- Settles O17: the word is the encoder's, an illegal word sets a bit the operation leaves unused, and loading the seed is
what CRC_SEED does. -/
theorem crcLoadLoadsItsOperand : Obligations.CrcLoadLoadsItsOperand := by
  unfold Obligations.CrcLoadLoadsItsOperand
  refine ⟨fun v => ?word, fun w hop hbits => ?illegal, exec_crcLoad, fun s => ?seed⟩
  case word =>
    rw [← encode_crcLoad]
    exact (Laws.RoundTrip.crcLoad v).2
  case illegal => exact exists_decode_eq_error_of_illegalWord (illegalWord_of_checksumOperand hop hbits)
  case seed => rw [exec_crcLoad, exec_crcSeed, crcSeedValue]

end Sys2Proof.Proofs
end

section
/-! PROOFS. The parser's work in the terms the statements use: what FEED and RESET leave, what the invariant gives in each phase
(10_state.md R29), the buffer writes, header completion, the two checksum halves, and the verdict of finalization. -/

namespace Sys2Proof

/-- The word of FEED as R120 writes it. -/
theorem encode_feed (b : Byte) : encode (.feed b) = 0x10000000 ||| b.setWidth 32 := by
  rw [encode, commandWord_eq_or, BitVec.setWidth_setWidth (by decide)]
  rfl

end Sys2Proof

namespace Sys2Proof.Machine

/-! ### The two commands -/

theorem exec_feed (b : Byte) (s : State) : exec (.feed b) s = .next (feedNext b s) := rfl

theorem exec_reset (s : State) : exec .reset s = .next ((s.withParser (resync s.cfg)).respond (bareResponse .ok)) := rfl

@[simp] theorem feedNext_parser (b : Byte) (s : State) : (feedNext b s).parser = (parseStep s.cfg s.parser b).1 := rfl

@[simp] theorem feedNext_responses (b : Byte) (s : State) :
    (feedNext b s).responses = s.responses ++ [feedResponse (parseStep s.cfg s.parser b).2] := rfl

/-- FEED is its parse step: the new parser, the answer with its message, and nothing else (41_parser.md R120). -/
theorem exec_feed_of_parseStep {b : Byte} {s : State} {p : Parser} {m : Option Message}
    (h : parseStep s.cfg s.parser b = (p, m)) :
    exec (.feed b) s = .next { s with parser := p, responses := s.responses ++ [feedResponse m] } := by
  rw [exec_feed, feedNext, h]
  rfl

section Phases

variable {cfg : Config} {p : Parser} {b : Byte}

/-! ### What the invariant gives in a phase -/

theorem Parser.Inv.hdrLen_cases (h : p.Inv cfg) : p.v2 = false ∧ p.hdrLen = 5 ∨ p.v2 = true ∧ p.hdrLen = 9 := by
  obtain ⟨-, hlen, -, -⟩ := h
  cases hv : p.v2 with
  | false => exact .inl ⟨rfl, by simpa [hv, hdrLenV1] using hlen⟩
  | true => exact .inr ⟨rfl, by simpa [hv, hdrLenV2] using hlen⟩

theorem Parser.Inv.in_header (h : p.Inv cfg) (hp : p.phase = .header) : p.hdrIdx < p.hdrLen := by
  obtain ⟨-, -, hi, -⟩ := h
  simpa only [Parser.PhaseInv, hp] using hi

theorem Parser.Inv.in_payload (h : p.Inv cfg) (hp : p.phase = .payload) :
    p.hdrIdx = p.hdrLen ∧ 1 ≤ p.payLen ∧ p.payLen ≤ cfg.payloadCap ∧ p.payIdx < p.payLen := by
  obtain ⟨-, -, hi, -⟩ := h
  simpa only [Parser.PhaseInv, hp] using hi

theorem Parser.Inv.in_checksumHigh (h : p.Inv cfg) (hp : p.phase = .checksumHigh) :
    p.FrameHeld cfg ∧ p.rxCk.extractLsb' 8 8 = 0 := by
  obtain ⟨-, -, hi, -⟩ := h
  simpa only [Parser.PhaseInv, hp] using hi

theorem Parser.Inv.in_signature (h : p.Inv cfg) (hp : p.phase = .signature) :
    p.FrameHeld cfg ∧ p.v2 = true ∧ p.signed = true ∧ p.sigCnt < sigLen := by
  obtain ⟨-, -, hi, -⟩ := h
  simpa only [Parser.PhaseInv, hp] using hi

theorem Parser.Inv.pay_length (h : p.Inv cfg) : p.pay.length = cfg.payloadCap.toNat := by
  obtain ⟨hlength, -⟩ := h
  exact hlength

/-- A header byte falls inside the header buffer (10_state.md R30). -/
theorem Parser.Inv.hdrIdx_lt_nine (h : p.Inv cfg) (hp : p.phase = .header) : p.hdrIdx.toNat < 9 := by
  have hlt := h.in_header hp
  obtain ⟨-, hlen⟩ | ⟨-, hlen⟩ := h.hdrLen_cases <;> rw [hlen] at hlt <;> bv_omega

/-- The byte that completes a header stands behind its len and incompat bytes. -/
theorem Parser.Inv.one_lt_hdrIdx_of_last (h : p.Inv cfg) (hlast : p.hdrIdx + 1 = p.hdrLen) : 1 < p.hdrIdx.toNat := by
  obtain ⟨-, hlen⟩ | ⟨-, hlen⟩ := h.hdrLen_cases <;> rw [hlen] at hlast <;> bv_omega

/-- A payload byte falls inside the payload buffer (10_state.md R30). -/
theorem Parser.Inv.payIdx_lt_payloadCap (h : p.Inv cfg) (hp : p.phase = .payload) :
    p.payIdx.toNat < cfg.payloadCap.toNat := by
  obtain ⟨-, -, hcap, hidx⟩ := h.in_payload hp
  exact Nat.lt_of_lt_of_le hidx hcap

theorem Parser.Inv.eq_reset (h : p.Inv cfg) (hp : p.phase = .waitSync) : p = Parser.reset cfg.payloadCap := by
  obtain ⟨-, -, -, hreset⟩ := h
  exact hreset hp

/-- Below the bound of a cursor, moving on by one does not wrap. -/
theorem cursor_within_iff {w : Nat} {i n : BitVec w} (h : i < n) : i.toNat + 1 < n.toNat ↔ i + 1 ≠ n := by
  have hlt : i.toNat < n.toNat := h
  have hn : n.toNat < 2 ^ w := n.isLt
  have hone : 1 % 2 ^ w = 1 := Nat.mod_eq_of_lt (by omega)
  rw [← BitVec.toNat_ne_iff_ne, BitVec.toNat_add, BitVec.ofNat_eq_ofNat, BitVec.toNat_ofNat, hone, Nat.mod_eq_of_lt (by omega)]
  omega

theorem byte_pos_iff {x : Byte} : 0 < x.toNat ↔ ¬ x = 0 := by
  bv_omega

/-! ### The buffer writes -/

theorem appendHeader_at_cursor (h : p.hdrIdx.toNat < 9) : (appendHeader p b).hdr[p.hdrIdx.toNat]? = some b := by
  simp [appendHeader, h]

theorem appendHeader_elsewhere (i : Nat) (hi : i < 9) (h : i ≠ p.hdrIdx.toNat) : (appendHeader p b).hdr[i] = p.hdr[i] := by
  simp [appendHeader, h.symm]

theorem appendPayload_length : (appendPayload p b).pay.length = p.pay.length := List.length_set

theorem appendPayload_at_cursor (h : p.payIdx.toNat < p.pay.length) :
    (appendPayload p b).pay[p.payIdx.toNat]? = some b := by
  simp [appendPayload, h]

theorem appendPayload_elsewhere {i : Nat} (h : i ≠ p.payIdx.toNat) : (appendPayload p b).pay[i]? = p.pay[i]? := by
  simp [appendPayload, h.symm]

/-- The payload step as one update (41_parser.md R133). -/
theorem stepPayload_eq (hp : p.phase = .payload) : stepPayload p b =
    { p with
      pay := (appendPayload p b).pay
      payIdx := p.payIdx + 1
      phase := if p.payIdx + 1 = p.payLen then .checksumLow else .payload } := by
  by_cases hlast : p.payIdx + 1 = p.payLen
  · rw [stepPayload_last hlast, if_pos hlast]
    rfl
  · rw [stepPayload_within hlast, if_neg hlast, ← hp]
    rfl

/-! ### WaitSync (41_parser.md R125, R126) -/

/-- The phase after a byte in WaitSync (41_parser.md R123). -/
theorem stepWaitSync_phase (hp : p.phase = .waitSync) :
    (stepWaitSync p b).phase = if b = syncV2 ∨ b = syncV1 then .header else .waitSync := by
  unfold stepWaitSync
  by_cases h2 : b = syncV2
  · rw [if_pos h2, if_pos (.inl h2), selectV2]
  · by_cases h1 : b = syncV1
    · rw [if_neg h2, if_pos h1, if_pos (.inr h1), selectV1]
    · rw [if_neg h2, if_neg h1, if_neg (not_or.mpr ⟨h2, h1⟩), hp]

/-! ### Header completion (41_parser.md R129 to R131) -/

theorem lenField_appendHeader_last (h : p.Inv cfg) (hlast : p.hdrIdx + 1 = p.hdrLen) :
    lenField (appendHeader p b) = p.hdr[0] :=
  appendHeader_elsewhere 0 (by decide) (Nat.zero_lt_of_lt (h.one_lt_hdrIdx_of_last hlast)).ne

theorem incompatField_appendHeader_last (h : p.Inv cfg) (hlast : p.hdrIdx + 1 = p.hdrLen) :
    incompatField (appendHeader p b) = p.hdr[1] :=
  appendHeader_elsewhere 1 (by decide) (h.one_lt_hdrIdx_of_last hlast).ne

theorem readSignedFlag_eq : readSignedFlag p =
    { p with
      incompat := if p.v2 then incompatField p else p.incompat
      signed := p.v2 && (incompatField p).getLsbD 0 } := by
  cases hv : p.v2 <;> simp [readSignedFlag, hv]

theorem stepHeader_oversize (h : p.Inv cfg) (hlast : p.hdrIdx + 1 = p.hdrLen)
    (hover : cfg.payloadCap.toNat < p.hdr[0].toNat) : stepHeader cfg p b = Parser.reset cfg.payloadCap := by
  rw [stepHeader_last hlast, completeHeader_oversize, resync]
  rwa [lenField_appendHeader_last h hlast]

/-- The completing header byte within the capacity: every field of the parser it leaves. -/
theorem stepHeader_fits (h : p.Inv cfg) (hlast : p.hdrIdx + 1 = p.hdrLen)
    (hfits : p.hdr[0].toNat ≤ cfg.payloadCap.toNat) : stepHeader cfg p b =
    { appendHeader p b with
      payLen := p.hdr[0]
      incompat := if p.v2 then p.hdr[1] else p.incompat
      signed := p.v2 && p.hdr[1].getLsbD 0
      payIdx := 0
      phase := if p.hdr[0] = 0 then .checksumLow else .payload } := by
  have hlen : lenField (appendHeader p b) = p.hdr[0] := lenField_appendHeader_last h hlast
  have hincompat : incompatField (appendHeader p b) = p.hdr[1] := incompatField_appendHeader_last h hlast
  rw [stepHeader_last hlast, completeHeader_fits (by rw [hlen]; exact Nat.not_lt.mpr hfits), readSignedFlag_eq, hlen,
    ← hincompat]
  rfl

/-- The phase after a header byte (41_parser.md R123, the rows of Header). -/
theorem stepHeader_phase (h : p.Inv cfg) (hp : p.phase = .header) : (stepHeader cfg p b).phase =
    if p.hdrIdx + 1 ≠ p.hdrLen then .header
    else if cfg.payloadCap.toNat < p.hdr[0].toNat then .waitSync
    else if p.hdr[0] = 0 then .checksumLow else .payload := by
  by_cases hlast : p.hdrIdx + 1 = p.hdrLen
  case neg =>
    rw [stepHeader_within hlast, if_pos hlast]
    exact hp
  case pos =>
    rw [if_neg (not_not.mpr hlast)]
    by_cases hover : cfg.payloadCap.toNat < p.hdr[0].toNat
    · rw [stepHeader_oversize h hlast hover, if_pos hover]
      rfl
    · rw [stepHeader_fits h hlast (Nat.not_lt.mp hover), if_neg hover]

/-! ### The checksum bytes and the trailer (41_parser.md R134 to R136) -/

theorem setWidth_low (b : Byte) : (b.setWidth 16).extractLsb' 0 8 = b := by
  ext i hi
  have h0 : i < 16 := by omega
  simp [h0, BitVec.getLsbD_eq_getElem hi]

theorem setWidth_high (b : Byte) : (b.setWidth 16).extractLsb' 8 8 = 0 := by
  ext i hi
  simp

theorem withChecksumHigh_low : (withChecksumHigh p b).rxCk.extractLsb' 0 8 = p.rxCk.extractLsb' 0 8 := by
  ext i hi
  simp [withChecksumHigh, hi]

theorem withChecksumHigh_high (h : p.rxCk.extractLsb' 8 8 = 0) : (withChecksumHigh p b).rxCk.extractLsb' 8 8 = b := by
  have hor : (withChecksumHigh p b).rxCk.extractLsb' 8 8
      = p.rxCk.extractLsb' 8 8 ||| (b.setWidth 16 <<< 8).extractLsb' 8 8 := by
    ext i hi
    simp [withChecksumHigh]
  rw [hor, h]
  ext i hi
  have h8 : 8 + i < 16 := by omega
  simp [h8, BitVec.getLsbD_eq_getElem hi]

theorem trailerFollows_iff : trailerFollows p = true ↔ p.v2 = true ∧ p.signed = true := by
  simp [trailerFollows]

theorem stepChecksumHigh_trailer (h : p.v2 = true ∧ p.signed = true) :
    stepChecksumHigh cfg p b = ({ withChecksumHigh p b with sigCnt := 0, phase := .signature }, none) :=
  if_pos (trailerFollows_iff.mpr h)

theorem stepChecksumHigh_noTrailer (h : ¬ (p.v2 = true ∧ p.signed = true)) :
    stepChecksumHigh cfg p b = finalize cfg (withChecksumHigh p b) :=
  if_neg (mt trailerFollows_iff.mp h)

theorem stepSignature_within (h : p.sigCnt + 1 ≠ 13) : stepSignature cfg p = ({ p with sigCnt := p.sigCnt + 1 }, none) :=
  if_neg h

/-- The verdict does not read the trailer's count. -/
theorem stepSignature_last (h : p.sigCnt + 1 = 13) : stepSignature cfg p = finalize cfg p :=
  if_pos h

/-- The phase after a high checksum byte (41_parser.md R123). -/
theorem stepChecksumHigh_phase : (stepChecksumHigh cfg p b).1.phase =
    if p.v2 = true ∧ p.signed = true then .signature else .waitSync := by
  by_cases ht : p.v2 = true ∧ p.signed = true
  · rw [stepChecksumHigh_trailer ht, if_pos ht]
  · rw [stepChecksumHigh_noTrailer ht, if_neg ht]
    rfl

/-- The phase after a signature byte (41_parser.md R123). -/
theorem stepSignature_phase (hp : p.phase = .signature) : (stepSignature cfg p).1.phase =
    if p.sigCnt + 1 ≠ 13 then .signature else .waitSync := by
  by_cases hlast : p.sigCnt + 1 = 13
  · rw [stepSignature_last hlast, if_neg (not_not.mpr hlast)]
    rfl
  · rw [stepSignature_within hlast, if_pos hlast]
    exact hp

/-! ### Finalization (41_parser.md R137, R138) -/

/-- One fold over the header, the payload and a salt, where the registry has one. -/
theorem recomputedChecksum_of_lookup {salt : Byte} (h : registryLookup cfg (msgidField p) = some salt) :
    recomputedChecksum cfg p = (headerBytes p ++ payloadBytes p ++ [salt]).foldl crcStep crcSeedValue := by
  simp [recomputedChecksum, h, crcFold, List.foldl_append]

theorem frameAccepted_iff : frameAccepted cfg p = true ↔ ∃ salt, registryLookup cfg (msgidField p) = some salt
    ∧ (headerBytes p ++ payloadBytes p ++ [salt]).foldl crcStep crcSeedValue = p.rxCk := by
  cases hl : registryLookup cfg (msgidField p) with
  | none => simp [frameAccepted, hl]
  | some salt => simp [frameAccepted, hl, recomputedChecksum_of_lookup hl]

theorem finalize_eq_some_iff {m : Message} :
    (finalize cfg p).2 = some m ↔ m = frameMessage p ∧ frameAccepted cfg p = true := by
  cases ha : frameAccepted cfg p with
  | false => simp [finalize_rejects ha]
  | true => simp [finalize_message ha, eq_comm]

theorem msgidField_v2_toNat (h : p.v2 = true) :
    (msgidField p).toNat = p.hdr[6].toNat + 2 ^ 8 * p.hdr[7].toNat + 2 ^ 16 * p.hdr[8].toNat := by
  rw [msgidField, if_pos h, threeBytes_toNat]
  omega

theorem msgidField_v1_toNat (h : p.v2 = false) : (msgidField p).toNat = p.hdr[4].toNat := by
  rw [msgidField, if_neg (Bool.eq_false_iff.mp h), BitVec.toNat_setWidth_of_le (by decide)]

/-- A FEED yields a message at the two ends of a frame that finalize it, and the message is finalization's. -/
theorem parseStep_eq_some_iff {m : Message} : (parseStep cfg p b).2 = some m ↔
    (p.phase = .checksumHigh ∧ ¬ (p.v2 = true ∧ p.signed = true) ∧ (finalize cfg (withChecksumHigh p b)).2 = some m)
      ∨ (p.phase = .signature ∧ p.sigCnt + 1 = 13 ∧ (finalize cfg p).2 = some m) := by
  constructor
  · intro h
    obtain ⟨hp, hf, heq⟩ | ⟨hp, hlast, heq⟩ := parseStep_message h
    · exact .inl ⟨hp, fun ht => by simp [trailerFollows_iff.mpr ht] at hf, heq ▸ h⟩
    · exact .inr ⟨hp, hlast, heq ▸ h⟩
  · rintro (⟨hp, hf, hm⟩ | ⟨hp, hlast, hm⟩)
    · rwa [parseStep_checksumHigh hp, stepChecksumHigh_noTrailer hf]
    · rwa [parseStep_signature hp, stepSignature_last hlast]

end Phases

end Sys2Proof.Machine
end

section
/-! PROOFS. The statements about the parser (41_parser.md R120 to R138): FEED and RESET, each phase, finalization, the phase graph
and the frames that yield a message. -/

namespace Sys2Proof.Proofs

open Sys2Proof Sys2Proof.Machine

/-- Settles O25: the cursor is inside the buffer by the invariant, and the step is the append alone. -/
theorem headerByteIsStoredAtTheCursor : Obligations.HeaderByteIsStoredAtTheCursor := by
  unfold Obligations.HeaderByteIsStoredAtTheCursor
  intro s b hinv hp hwithin
  refine ⟨(appendHeader s.parser b).hdr, appendHeader_at_cursor (hinv.hdrIdx_lt_nine hp),
    fun i hi => appendHeader_elsewhere i.val i.isLt hi, exec_feed_of_parseStep ?_⟩
  rw [parseStep_header hp, stepHeader_within hwithin]
  rfl

/-- Settles O26: the length byte stands in the header before its last byte comes, and no byte is above 255. -/
theorem oversizeHeaderAborts : Obligations.OversizeHeaderAborts := by
  unfold Obligations.OversizeHeaderAborts
  refine ⟨fun s b hinv hp hlast hover => ?abort, fun cfg p hcap => ?full⟩
  case abort =>
    apply exec_feed_of_parseStep
    rw [parseStep_header hp, stepHeader_oversize hinv hlast hover]
  case full =>
    rw [hcap]
    exact Nat.not_lt.mpr (Nat.le_of_lt_succ p.hdr[0].isLt)

/-- Settles O27: the completing byte is stored as any header byte, and the other fields are those of `stepHeader_fits`. -/
theorem headerCompletionReadsLengthAndFlag : Obligations.HeaderCompletionReadsLengthAndFlag := by
  unfold Obligations.HeaderCompletionReadsLengthAndFlag
  intro s b hinv hp hlast hfits
  refine ⟨_, exec_feed_of_parseStep (parseStep_header hp), ?_⟩
  rw [stepHeader_fits hinv hlast hfits]
  refine ⟨rfl, fun hv => ?v2, fun hv => ?v1, rfl, ?phase, appendHeader_at_cursor (hinv.hdrIdx_lt_nine hp),
    fun i hi => appendHeader_elsewhere i.val i.isLt hi, hlast, rfl, rfl, rfl, rfl, rfl, rfl⟩
  case v2 => simp [hv]
  case v1 => simp [hv]
  case phase => simp only [byte_pos_iff, ite_not]

/-- Settles O28: the payload cursor is below the declared length, which fits the buffer. -/
theorem payloadByteIsStoredAtTheCursor : Obligations.PayloadByteIsStoredAtTheCursor := by
  unfold Obligations.PayloadByteIsStoredAtTheCursor
  intro s b hinv hp
  have hin := hinv.payIdx_lt_payloadCap hp
  refine ⟨hin, (appendPayload s.parser b).pay, ?length, appendPayload_at_cursor (hinv.pay_length ▸ hin),
    fun i hi => appendPayload_elsewhere hi, exec_feed_of_parseStep ?step⟩
  case length => rw [appendPayload_length, hinv.pay_length]
  case step => rw [parseStep_payload hp, stepPayload_eq hp]

/-- Settles O30: the register gets its high byte by an OR, because ChecksumLow left that half at 0. -/
theorem checksumHighCompletesTheChecksum : Obligations.ChecksumHighCompletesTheChecksum := by
  unfold Obligations.ChecksumHighCompletesTheChecksum
  intro s b hinv hp
  obtain ⟨-, hzero⟩ := hinv.in_checksumHigh hp
  have hhigh : (withChecksumHigh s.parser b).rxCk.extractLsb' 8 8 = b := withChecksumHigh_high hzero
  refine ⟨fun hv hs => ?signed, fun hns => ?unsigned⟩
  case signed =>
    refine ⟨(withChecksumHigh s.parser b).rxCk, withChecksumHigh_low, hhigh, exec_feed_of_parseStep ?_⟩
    rw [parseStep_checksumHigh hp, stepChecksumHigh_trailer ⟨hv, hs⟩]
    rfl
  case unsigned =>
    refine ⟨(withChecksumHigh s.parser b).rxCk, withChecksumHigh_low, hhigh, exec_feed_of_parseStep ?_⟩
    rw [parseStep_checksumHigh hp, stepChecksumHigh_noTrailer hns]
    rfl

/-- Settles O32: the fields the statement names are the parser's own, and the message is accepted as `frameAccepted_iff`
says. -/
theorem finalizeAcceptsExactlyRegisteredMatches : Obligations.FinalizeAcceptsExactlyRegisteredMatches := by
  unfold Obligations.FinalizeAcceptsExactlyRegisteredMatches
  refine fun cfg p => ⟨rfl, fun sysid compid msgid hv2 hv1 m => ?_⟩
  have hfields : sysid = sysidField p ∧ compid = compidField p ∧ msgid = msgidField p := by
    cases hv : p.v2 with
    | false =>
      obtain ⟨hsys, hcomp, hid⟩ := hv1 hv
      exact ⟨by simp [sysidField, hv, hsys], by simp [compidField, hv, hcomp],
        BitVec.eq_of_toNat_eq (hid.trans (msgidField_v1_toNat hv).symm)⟩
    | true =>
      obtain ⟨hsys, hcomp, hid⟩ := hv2 hv
      exact ⟨by simp [sysidField, hv, hsys], by simp [compidField, hv, hcomp],
        BitVec.eq_of_toNat_eq (hid.trans (msgidField_v2_toNat hv).symm)⟩
  obtain ⟨rfl, rfl, rfl⟩ := hfields
  rw [finalize_eq_some_iff, frameAccepted_iff]
  rfl

/-- Settles O33: the phase of the parser each step leaves, by the phase it starts in. -/
theorem phaseGraph : Obligations.PhaseGraph := by
  unfold Obligations.PhaseGraph
  refine ⟨fun s => ⟨_, exec_reset s, rfl⟩, fun s b hinv => ⟨_, exec_feed b s, ?_⟩⟩
  rw [feedNext_parser]
  cases hp : s.parser.phase with
  | waitSync =>
    rw [parseStep_waitSync hp]
    exact stepWaitSync_phase hp
  | header =>
    simp only [parseStep_header hp, stepHeader_phase hinv hp, cursor_within_iff (hinv.in_header hp), byte_pos_iff, ite_not]
  | payload =>
    obtain ⟨-, -, -, hidx⟩ := hinv.in_payload hp
    simp only [parseStep_payload hp, stepPayload_eq hp, cursor_within_iff hidx, ite_not]
  | checksumLow => rw [parseStep_checksumLow hp, stepChecksumLow]
  | checksumHigh =>
    rw [parseStep_checksumHigh hp]
    exact stepChecksumHigh_phase
  | signature =>
    obtain ⟨-, -, -, hcnt⟩ := hinv.in_signature hp
    have hwithin : s.parser.sigCnt.toNat + 1 < 13 ↔ s.parser.sigCnt + 1 ≠ 13 := cursor_within_iff hcnt
    simp only [parseStep_signature hp, stepSignature_phase hp, hwithin]

/-- Settles O34: a step that yields a message is a finalization, which resynchronizes. -/
theorem messageOnlyFromACompletedFrame : Obligations.MessageOnlyFromACompletedFrame := by
  unfold Obligations.MessageOnlyFromACompletedFrame
  refine fun s b hinv => ⟨_, _, exec_feed b s, feedNext_responses b s, fun m => ?message, fun hm => ?reset⟩
  case message =>
    have hlast : s.parser.sigCnt + 1 = 13 ↔ s.parser.sigCnt = 12 := by bv_omega
    rw [parseStep_eq_some_iff, hlast]
  case reset =>
    obtain ⟨m, hm⟩ := Option.ne_none_iff_exists'.mp hm
    obtain ⟨-, -, heq⟩ | ⟨-, -, heq⟩ := parseStep_message hm <;> rw [feedNext_parser, heq] <;> rfl

/-- Settles O21: FEED is one parse step; a legal word of operation 1 has bits 27:8 at 0. -/
theorem feedParsesOneByte : Obligations.FeedParsesOneByte := by
  unfold Obligations.FeedParsesOneByte
  refine ⟨fun b => ?word, fun w hop hbits => ?illegal, fun b s => exec_feed_of_parseStep rfl⟩
  case word =>
    rw [← encode_feed]
    exact (Laws.RoundTrip.feed b).2
  case illegal => exact exists_decode_eq_error_of_illegalWord (illegalWord_of_byteOperand (.inl hop) hbits)

/-- Settles O23: of the words of operation 0 only 0 has all bits 27:0 at 0. -/
theorem resetReinitializesTheParser : Obligations.ResetReinitializesTheParser := by
  unfold Obligations.ResetReinitializesTheParser
  refine ⟨Laws.RoundTrip.reset.2, fun w hop hw => ?illegal, exec_reset, fun s t hinv hp ht => ?idle⟩
  case illegal =>
    have hbits : w.toNat % 2 ^ 28 ≠ 0 := by
      intro h0
      apply hw
      apply BitVec.eq_of_toNat_eq
      rw [BitVec.toNat_ushiftRight, Nat.shiftRight_eq_div_pow] at hop
      show w.toNat = 0
      omega
    exact exists_decode_eq_error_of_illegalWord (illegalWord_of_noOperand (.inl hop) hbits)
  case idle =>
    obtain rfl := Host.Outcome.next.inj ((exec_reset s).symm.trans ht)
    exact (hinv.eq_reset hp).symm

/-- Settles O24: the three branches of the WaitSync step. -/
theorem waitSyncFindsTheSyncByte : Obligations.WaitSyncFindsTheSyncByte := by
  unfold Obligations.WaitSyncFindsTheSyncByte
  intro s b hp
  exact exec_feed_of_parseStep (parseStep_waitSync hp)

/-- Settles O29: the register is the byte widened to 16 bits. -/
theorem checksumLowWritesTheWholeRegister : Obligations.ChecksumLowWritesTheWholeRegister := by
  unfold Obligations.ChecksumLowWritesTheWholeRegister
  intro s b hp
  exact ⟨b.setWidth 16, setWidth_low b, setWidth_high b, exec_feed_of_parseStep (parseStep_checksumLow hp)⟩

/-- Settles O31: the count decides between staying in the trailer and finalizing. -/
theorem signatureBytesAreOnlyCounted : Obligations.SignatureBytesAreOnlyCounted := by
  unfold Obligations.SignatureBytesAreOnlyCounted
  refine fun s b hp => ⟨fun hwithin => exec_feed_of_parseStep ?_, fun hlast => exec_feed_of_parseStep ?_⟩
  · rw [parseStep_signature hp, stepSignature_within hwithin]
  · rw [parseStep_signature hp, stepSignature_last hlast]
    rfl

end Sys2Proof.Proofs
end

section
/-! PROOFS. The registry commands in the terms the statements use: their words, the words of any operation that set a reserved bit,
and what they leave and answer for a given lookup result (42_registry.md R173, R174). -/

namespace Sys2Proof

/-- The word of CRC_SALT as R174 writes it. -/
theorem encode_crcSalt (id : MsgId) : encode (.crcSalt id) = 0x50000000 ||| id.setWidth 32 := by
  rw [encode, commandWord_eq_or]
  rfl

/-- The word of LOOKUP as R173 writes it. -/
theorem encode_lookup (id : MsgId) : encode (.lookup id) = 0x60000000 ||| id.setWidth 32 := by
  rw [encode, commandWord_eq_or]
  rfl

end Sys2Proof

namespace Sys2Proof.Machine

/-- Each of bits 27:24 makes a word illegal, whatever its operation (30_encoding.md R70, R73). -/
theorem illegalWord_of_reservedBits {w : CmdWord} (hbits : (w >>> 24).toNat % 2 ^ 4 ≠ 0) : IllegalWord w :=
  .inr (.inl hbits)

/-- LOOKUP answers the lookup's result, found or not, and does nothing else (42_registry.md R173). -/
theorem exec_lookup_of_registryLookup {id : MsgId} {s : State} {salt : Option Byte} (h : registryLookup s.cfg id = salt) :
    exec (.lookup id) s = .next (s.respond (lookupResponse salt)) := by
  subst h
  rfl

/-- CRC_SALT folds the lookup's result into the accumulator, a missing salt as no byte at all (42_registry.md R174). -/
theorem exec_crcSalt_of_registryLookup {id : MsgId} {s : State} {salt : Option Byte} (h : registryLookup s.cfg id = salt) :
    exec (.crcSalt id) s = .next ((s.withCrcAcc (foldSalt s.crcAcc salt)).respond
      (saltResponse (foldSalt s.crcAcc salt) salt)) := by
  subst h
  rfl

end Sys2Proof.Machine
end

section
/-! PROOFS. The statements about LOOKUP and CRC_SALT (42_registry.md R173, R174). -/

namespace Sys2Proof.Proofs

open Sys2Proof Sys2Proof.Machine

/-- Settles O19: the word is the encoder's, an illegal word sets a reserved bit, and the two answers are those of a lookup that
finds a salt and of one that finds none. -/
theorem lookupAnswersTheRegistry : Obligations.LookupAnswersTheRegistry := by
  unfold Obligations.LookupAnswersTheRegistry
  refine ⟨fun id => ?word, fun w _ hbits => ?illegal, fun id x s hfound => ?registered, fun id s hnone => ?unregistered⟩
  case word =>
    rw [← encode_lookup]
    exact (Laws.RoundTrip.lookup id).2
  case illegal => exact exists_decode_eq_error_of_illegalWord (illegalWord_of_reservedBits hbits)
  case registered => exact exec_lookup_of_registryLookup hfound
  case unregistered => exact exec_lookup_of_registryLookup hnone

/-- Settles O20: as O19, with the salt folded in; CRC_BYTE of the same salt folds the same byte into the same accumulator. -/
theorem crcSaltFoldsARegisteredSalt : Obligations.CrcSaltFoldsARegisteredSalt := by
  unfold Obligations.CrcSaltFoldsARegisteredSalt
  refine ⟨fun id => ?word, fun w _ hbits => ?illegal, fun id x s hfound => ?registered, fun id s hnone => ?unregistered,
    fun id x s t u hfound ht hu => ?asCrcByte⟩
  case word =>
    rw [← encode_crcSalt]
    exact (Laws.RoundTrip.crcSalt id).2
  case illegal => exact exists_decode_eq_error_of_illegalWord (illegalWord_of_reservedBits hbits)
  case registered => exact exec_crcSalt_of_registryLookup hfound
  case unregistered => exact exec_crcSalt_of_registryLookup hnone
  case asCrcByte =>
    obtain rfl := Host.Outcome.next.inj ((exec_crcSalt_of_registryLookup hfound).symm.trans ht)
    obtain rfl := Host.Outcome.next.inj ((exec_crcByte x s).symm.trans hu)
    simp only [State.respond_crcAcc, State.withCrcAcc_crcAcc, foldSalt_some]

end Sys2Proof.Proofs
end

section
/-! PROOFS. SEND_HB in the terms the statements use: the bytes the heartbeat's checksum covers (43_encoder.md R192), a delivery that
a fault ends and one that gets everything through (R195, R196), and a delivery's independence of the rest of the block (R197). -/

namespace Sys2Proof.Machine

theorem exec_sendHb (seq sysid compid : Byte) (s : State) :
    exec (.sendHb seq sysid compid) s = deliver (hbFrame s.cfg seq sysid compid) s := rfl

/-! ### The heartbeat frame (43_encoder.md R191, R192) -/

theorem hbSalt_of_lookup {cfg : Config} {salt : Byte} (h : cfg.registry.lookup cfg.hbMsgid = some salt) :
    hbSalt cfg = salt :=
  Option.get_of_eq_some _ h

/-- Frame offsets 1 to 18 are the header after the sync byte and the payload, which the checksum covers. -/
theorem hbFrame_covered (cfg : Config) (seq sysid compid : Byte) :
    ((hbFrame cfg seq sysid compid).drop 1).take 18 = hbHeader cfg seq sysid compid ++ cfg.hbPayload.toList := by
  have hlength : (hbHeader cfg seq sysid compid ++ cfg.hbPayload.toList).length = 18 := by simp [hbHeader]
  rw [hbFrame, List.drop_one, List.tail_cons, List.take_left' hlength]

/-! ### Deliveries by how they end (43_encoder.md R195, R196) -/

section Deliveries

variable {rest : List Byte} {s t : State}

/-- A fault after answers that make progress ends the run with what they accepted, and no further attempt is made. -/
theorem sinkSend_fault_after_progress {before : List SinkAnswer} (later : List SinkAnswer) (hp : progressing before = true)
    (ht : acceptedTotal before < rest.length) : sinkSend rest (before ++ .fault :: later) =
      ⟨remaindersOffered rest before (before.length + 1), rest.take (acceptedTotal before),
        rest.drop (acceptedTotal before), later, .failed⟩ := by
  have hleft : rest.drop (acceptedTotal before) ≠ [] := by simpa using ht
  rw [sinkSend_after_progress before _ rest hp ht, sinkSend_fault later hleft, remaindersOffered_last, List.append_nil]

/-- An attempt in which the sink takes everything offered ends the run. -/
theorem sinkSend_accepted_all (later : List SinkAnswer) (h : rest ≠ []) :
    sinkSend rest (.accepted rest.length :: later) = ⟨[rest], rest, [], later, .done⟩ := by
  rw [sinkSend_accepted later (List.length_pos_iff.mpr h) le_rfl, List.drop_length, List.take_length, sinkSend_empty]
  simp only [Delivery.after, List.append_nil]

/-- A delivery leaves everything but the sink's side and the responses as it was. -/
theorem deliver_frame (h : deliver rest s = .next t) :
    t.parser = s.parser ∧ t.crcAcc = s.crcAcc ∧ t.cfg = s.cfg ∧ t.cmds = s.cmds := by
  obtain ⟨-, rfl⟩ | ⟨-, rfl⟩ | ⟨-, rfl⟩ := deliver_next h <;> exact ⟨rfl, rfl, rfl, rfl⟩

/-- A delivery from another parser state and accumulator ends the same way, with these two carried along. -/
theorem deliver_withParser_withCrcAcc (p : Parser) (c : Checksum) (h : deliver rest s = .next t) :
    deliver rest ((s.withParser p).withCrcAcc c) = .next ((t.withParser p).withCrcAcc c) := by
  obtain ⟨hv, rfl⟩ | ⟨hv, rfl⟩ | ⟨hv, rfl⟩ := deliver_next h
  · exact deliver_of_done hv
  · exact deliver_of_failed hv
  · exact deliver_of_waiting hv

end Deliveries

end Sys2Proof.Machine
end

section
/-! PROOFS. The statements about the heartbeat frame, a sink fault and the frame of SEND_HB (43_encoder.md R191, R192, R196,
R197). -/

namespace Sys2Proof.Proofs

open Sys2Proof Sys2Proof.Machine

/-- Settles O47: the run ends at the fault with what the answers before it accepted; the retry's one attempt offers the whole
frame, since the configuration is the same. -/
theorem sendHbFaultKeepsThePrefix : Obligations.SendHbFaultKeepsThePrefix := by
  unfold Obligations.SendHbFaultKeepsThePrefix
  intro s seq sysid compid answers later hp ht hs
  have hlength : (hbFrame s.cfg seq sysid compid).length = 21 := hbFrame_length ..
  have hrun := sinkSend_fault_after_progress later hp (hlength.symm ▸ ht)
  rw [← hs] at hrun
  refine ⟨_, ?fault, rfl, fun rest hlater => ?retry⟩
  case fault =>
    rw [exec_sendHb, deliver_of_failed (by rw [hrun]), hrun]
    rfl
  case retry =>
    have hne : hbFrame s.cfg seq sysid compid ≠ [] := List.ne_nil_of_length_eq_add_one hlength
    have hretry := sinkSend_accepted_all rest hne
    rw [hlength, ← hlater] at hretry
    refine ⟨_, deliver_of_done (by rw [hretry]), ?_⟩
    rw [State.respond_sinkBytes, State.withDelivery_sinkBytes, hretry]

/-- Settles O49: the frame depends on the configuration alone, and a delivery neither reads nor writes the two. -/
theorem sendHbNeitherReadsNorWritesBlockState : Obligations.SendHbNeitherReadsNorWritesBlockState := by
  unfold Obligations.SendHbNeitherReadsNorWritesBlockState
  intro s seq sysid compid p c t h
  rw [exec_sendHb] at h
  obtain ⟨hparser, hacc, hcfg, hcmds⟩ := deliver_frame h
  exact ⟨hparser, hacc, hcfg, hcmds, deliver_withParser_withCrcAcc p c h⟩

/-- Settles O45: the checksum is the encoder's own, over the bytes of `hbFrame_covered`. -/
theorem heartbeatFrameLayout : Obligations.HeartbeatFrameLayout := by
  unfold Obligations.HeartbeatFrameLayout
  intro cfg seq sysid compid salt hsalt
  refine ⟨hbChecksum cfg seq sysid compid, ?bytes, hbFrame_length .., ?checksum⟩
  case bytes => simp [hbFrame, hbHeader, syncV2]
  case checksum => rw [hbFrame_covered, hbChecksum, hbSalt_of_lookup hsalt, crcSeedValue]

end Sys2Proof.Proofs
end

section
/-! PROOFS. Boot and the configuration: the checks of 00_scope.md R6 one by one, what the started configuration holds of the raw one,
what one step can do, and that no step writes the configuration (70_reset_and_hazards.md R262). -/

namespace Sys2Proof

variable {r : RawConfig}

theorem RawConfig.wellFormed_iff : r.wellFormed = true ↔
    (r.registry.lookup r.hbMsgid).isSome = true ∧ r.hbPayload.length = 9 ∧ r.payloadCap ≤ 255
      ∧ (∀ e ∈ r.registry, e.1 < 2 ^ 24) ∧ (∀ e ∈ r.registry, e.2 < 2 ^ 8) := by
  simp only [RawConfig.wellFormed, Bool.and_eq_true, beq_iff_eq, decide_eq_true_eq, List.all_eq_true, and_assoc]

/-- HB_MSGID has the width of an identifier because it is a key of REGISTRY (00_scope.md R6). -/
theorem RawConfig.hbMsgid_lt (hreg : (r.registry.lookup r.hbMsgid).isSome = true) (hkeys : ∀ e ∈ r.registry, e.1 < 2 ^ 24) :
    r.hbMsgid < 2 ^ 24 := by
  obtain ⟨salt, hsalt⟩ := Option.isSome_iff_exists.mp hreg
  obtain ⟨before, after, hsplit, -⟩ := List.lookup_eq_some_iff.mp hsalt
  exact hkeys (r.hbMsgid, salt) (by simp [hsplit])

/-- Cutting the pairs to their widths loses no entry and merges no two keys, since all of them fit. -/
theorem lookup_map_ofNat (id : MsgId) (l : List (Nat × Nat)) (hkeys : ∀ e ∈ l, e.1 < 2 ^ 24)
    (hsalts : ∀ e ∈ l, e.2 < 2 ^ 8) :
    ((l.map (fun e => (BitVec.ofNat 24 e.1, BitVec.ofNat 8 e.2))).lookup id).map BitVec.toNat = l.lookup id.toNat := by
  induction l with
  | nil => rfl
  | cons e l ih =>
    rw [List.forall_mem_cons] at hkeys hsalts
    obtain ⟨hkey, hkeys⟩ := hkeys
    obtain ⟨hsalt, hsalts⟩ := hsalts
    have hsame : (id == BitVec.ofNat 24 e.1) = (id.toNat == e.1) := by
      rw [Bool.eq_iff_iff, beq_iff_eq, beq_iff_eq, ← BitVec.toNat_inj, BitVec.toNat_ofNat, Nat.mod_eq_of_lt hkey]
    rw [List.map_cons, List.lookup_cons, List.lookup_cons, hsame]
    cases id.toNat == e.1 with
    | true => exact congrArg some (Nat.mod_eq_of_lt hsalt)
    | false => exact ih hkeys hsalts

/-- The fields of the configuration that passes the checks of 00_scope.md R6. -/
theorem Config.ofRaw_of_wellFormed (h : r.wellFormed = true) : ∃ cfg, Config.ofRaw r = some cfg
    ∧ cfg.payloadCap = BitVec.ofNat 8 r.payloadCap ∧ cfg.hbMsgid = BitVec.ofNat 24 r.hbMsgid
    ∧ cfg.hbPayload.toList = r.hbPayload ∧ cfg.registry = r.registryEntries :=
  ⟨_, dif_pos h, rfl, rfl, rfl, rfl⟩

theorem Config.ofRaw_of_not_wellFormed (h : ¬ r.wellFormed = true) : Config.ofRaw r = none := dif_neg h

end Sys2Proof

namespace Sys2Proof.Machine

theorem powerOn_of_ofRaw {r : RawConfig} {cfg : Config} (h : Config.ofRaw r = some cfg) :
    powerOn r = .next (State.powerOn cfg) := by
  simp only [powerOn, h]

theorem powerOn_of_not_wellFormed {r : RawConfig} (h : ¬ r.wellFormed = true) : powerOn r = .refused .illFormedConfig := by
  simp only [powerOn, Config.ofRaw_of_not_wellFormed h]

/-- All that a step which goes on can have done (60_exceptions.md R234, R240; 30_encoding.md R73). -/
theorem step_next {s t : State} (h : step s = .next t) :
    (∃ rest, s.sending = some rest ∧ deliver rest s = .next t)
      ∨ (s.sending = none ∧ s.cmds = [] ∧ t = s)
      ∨ (∃ w ws i, s.sending = none ∧ s.cmds = w :: ws ∧ decode w = .ok i ∧ exec i (s.withCmds ws) = .next t)
      ∨ (∃ w ws e, s.sending = none ∧ s.cmds = w :: ws ∧ decode w = .error e
        ∧ t = (s.withCmds ws).respond (bareResponse .illegal)) := by
  cases hsending : s.sending with
  | some rest => exact .inl ⟨rest, rfl, by simpa only [step, hsending] using h⟩
  | none =>
    cases hcmds : s.cmds with
    | nil =>
      simp only [step, hsending, hcmds, holdState] at h
      exact .inr (.inl ⟨rfl, rfl, (Host.Outcome.next.inj h).symm⟩)
    | cons w ws =>
      cases hdecode : decode w with
      | ok i =>
        simp only [step, hsending, hcmds, hdecode] at h
        exact .inr (.inr (.inl ⟨w, ws, i, rfl, rfl, hdecode, h⟩))
      | error e =>
        rw [step_of_decode_error hsending hcmds hdecode, answerIllegal] at h
        exact .inr (.inr (.inr ⟨w, ws, e, rfl, rfl, hdecode, (Host.Outcome.next.inj h).symm⟩))

theorem exec_keeps_cfg {i : Instr} {s t : State} (h : exec i s = .next t) : t.cfg = s.cfg := by
  cases i with
  | sendHb seq sysid compid =>
    rw [exec_sendHb] at h
    obtain ⟨-, -, hcfg, -⟩ := deliver_frame h
    exact hcfg
  | reset | feed b | crcSeed | crcLoad v | crcByte b | crcSalt id | lookup id =>
    obtain rfl := Host.Outcome.next.inj h
    rfl

/-- 70_reset_and_hazards.md R262: each thing a step can do writes other fields. -/
theorem step_keeps_cfg {s t : State} (h : step s = .next t) : t.cfg = s.cfg := by
  obtain ⟨rest, -, hdeliver⟩ | ⟨-, -, rfl⟩ | ⟨w, ws, i, -, -, -, hexec⟩ | ⟨w, ws, e, -, -, -, rfl⟩ := step_next h
  · obtain ⟨-, -, hcfg, -⟩ := deliver_frame hdeliver
    exact hcfg
  · rfl
  · rw [exec_keeps_cfg hexec, State.withCmds_cfg]
  · rw [State.respond_cfg, State.withCmds_cfg]

end Sys2Proof.Machine
end

section
/-! PROOFS. The statements about power-on and the configuration (70_reset_and_hazards.md R260, R262). -/

namespace Sys2Proof.Proofs

open Sys2Proof Sys2Proof.Machine

/-- Settles O54: the checks are those of `RawConfig.wellFormed`, and with them no number is cut short at its field's width. -/
theorem configurationIsCheckedAndFixed : Obligations.ConfigurationIsCheckedAndFixed := by
  unfold Obligations.ConfigurationIsCheckedAndFixed
  refine ⟨fun r => ⟨fun hchecks => ?started, fun hfails => ?refused⟩, fun s t => step_keeps_cfg⟩
  case started =>
    obtain ⟨cfg, hcfg, hcap, hid, hpayload, hregistry⟩ := Config.ofRaw_of_wellFormed (RawConfig.wellFormed_iff.mpr hchecks)
    obtain ⟨hreg, -, hcapBound, hkeys, hsalts⟩ := hchecks
    refine ⟨cfg, powerOn_of_ofRaw hcfg, ?cap, ?msgid, hpayload, fun id => ?lookup⟩
    case cap => rw [hcap, BitVec.toNat_ofNat, Nat.mod_eq_of_lt (Nat.lt_succ_of_le hcapBound)]
    case msgid => rw [hid, BitVec.toNat_ofNat, Nat.mod_eq_of_lt (RawConfig.hbMsgid_lt hreg hkeys)]
    case lookup =>
      rw [hregistry]
      exact lookup_map_ofNat id r.registry hkeys hsalts
  case refused => exact powerOn_of_not_wellFormed (mt RawConfig.wellFormed_iff.mp hfails)

/-- Settles O53: the parser RESET writes is the one it finds, so only the response is new. -/
theorem powerOnState : Obligations.PowerOnState := by
  unfold Obligations.PowerOnState
  refine fun cfg => ⟨rfl, rfl, ?_⟩
  have hparser : (State.powerOn cfg).withParser (resync (State.powerOn cfg).cfg) = State.powerOn cfg := rfl
  rw [exec_reset, hparser]
  rfl

end Sys2Proof.Proofs
end

section
/-! PROOFS. The encoder against the decoder: the operand field of a legal word from its operands (30_encoding.md R70 to R72), the
rows of opcode_table.json as shifts of the word, and what the assembler makes of a line (R75). -/

namespace Sys2Proof

/-! ### The word rebuilt from its fields -/

variable {w : CmdWord}

/-- A word without reserved bits is its operation and its operand field. -/
theorem commandWord_of_fields (hrsv : rsvField w = 0) : commandWord (opField w) (idOperand w) = w := by
  have hzero : w.toNat / 2 ^ 24 % 2 ^ 4 = 0 := by
    rw [← rsvField_toNat, hrsv]
    rfl
  apply BitVec.eq_of_toNat_eq
  rw [commandWord_toNat, opField_toNat, idOperand_toNat]
  omega

theorem setWidth_byte0 (h : aboveByte w = 0) : (byte0 w).setWidth 24 = idOperand w := by
  have hzero : w.toNat / 2 ^ 8 % 2 ^ 16 = 0 := by
    rw [← aboveByte_toNat, h]
    rfl
  apply BitVec.eq_of_toNat_eq
  rw [BitVec.toNat_setWidth_of_le (by decide), byte0_toNat, idOperand_toNat]
  omega

theorem setWidth_checksumOperand (h : byte2 w = 0) : (checksumOperand w).setWidth 24 = idOperand w := by
  have hzero : w.toNat / 2 ^ 16 % 2 ^ 8 = 0 := by
    rw [← byte2_toNat, h]
    rfl
  apply BitVec.eq_of_toNat_eq
  rw [BitVec.toNat_setWidth_of_le (by decide), checksumOperand_toNat, idOperand_toNat]
  omega

theorem threeBytes_eq_idOperand (w : CmdWord) : byte2 w ++ (byte1 w ++ byte0 w) = idOperand w := by
  apply BitVec.eq_of_toNat_eq
  rw [threeBytes_toNat, byte2_toNat, byte1_toNat, byte0_toNat, idOperand_toNat]
  omega

/-- The encoder puts every field back where the decoder cut it out. -/
theorem encode_of_hasFields {i : Instr} (hrsv : rsvField w = 0) (h : HasFields w i) : encode i = w := by
  have hword := commandWord_of_fields hrsv
  cases i with
  | reset | crcSeed =>
    obtain ⟨hop, hid⟩ := h
    rwa [hop, hid] at hword
  | feed b | crcByte b =>
    obtain ⟨hop, habove, rfl⟩ := h
    rwa [hop, ← setWidth_byte0 habove] at hword
  | crcLoad v =>
    obtain ⟨hop, hbyte2, rfl⟩ := h
    rwa [hop, ← setWidth_checksumOperand hbyte2] at hword
  | crcSalt id | lookup id =>
    obtain ⟨hop, rfl⟩ := h
    rwa [hop] at hword
  | sendHb seq sysid compid =>
    obtain ⟨hop, rfl, rfl, rfl⟩ := h
    rwa [hop, ← threeBytes_eq_idOperand] at hword

end Sys2Proof

namespace Sys2Proof.Machine

/-! ### The opcode table -/

/-- The number of low bits that row n of opcode_table.json leaves to the operands. -/
def operandBits : Fin 8 → Nat
  | 0 | 2 => 0
  | 1 | 4 => 8
  | 3 => 16
  | 5 | 6 | 7 => 24

/-- A row asks for the operation in bits 31:28 and for 0 in every bit below it that is no operand bit. -/
theorem opcodeRows_eq (n : Fin 8) : opcodeRows[n.val]'n.isLt
    = (BitVec.ofNat 32 (n.val * 2 ^ (28 - operandBits n)) <<< operandBits n, BitVec.allOnes 32 <<< operandBits n) := by
  revert n
  decide

/-- A mask of the bits from k upwards compares the word shifted down by k. -/
theorem and_highMask_eq_iff {w : CmdWord} {k m : Nat} (hm : m * 2 ^ k < 2 ^ 32) :
    w &&& BitVec.allOnes 32 <<< k = BitVec.ofNat 32 m <<< k ↔ w.toNat / 2 ^ k = m := by
  have hpos : 0 < 2 ^ k := Nat.two_pow_pos k
  have hm' : m < 2 ^ 32 := Nat.lt_of_le_of_lt (Nat.le_mul_of_pos_right m hpos) hm
  have hw : w.toNat / 2 ^ k * 2 ^ k < 2 ^ 32 := Nat.lt_of_le_of_lt (Nat.div_mul_le_self ..) w.isLt
  rw [← BitVec.shiftLeft_ushiftRight, ← BitVec.toNat_inj]
  simp only [BitVec.toNat_shiftLeft, BitVec.toNat_ushiftRight, BitVec.toNat_ofNat, Nat.shiftLeft_eq,
    Nat.shiftRight_eq_div_pow, Nat.mod_eq_of_lt hm', Nat.mod_eq_of_lt hm, Nat.mod_eq_of_lt hw]
  exact Nat.mul_left_inj hpos.ne'

theorem opNumber_eq_opField {w : CmdWord} {i : Instr} (h : HasFields w i) : opNumber i = (opField w).toNat := by
  cases i <;> obtain ⟨hop, -⟩ := h <;> rw [hop] <;> rfl

theorem exists_decode_opNumber_iff (w : CmdWord) (n : Nat) :
    (∃ i, decode w = .ok i ∧ opNumber i = n) ↔ ¬ IllegalWord w ∧ w.toNat / 2 ^ 28 = n := by
  rw [← exists_decode_eq_ok_iff, ← opField_toNat, ← exists_and_right]
  refine exists_congr fun i => and_congr_right fun hi => ?_
  obtain ⟨-, hfields⟩ := decode_eq_ok_iff.mp hi
  rw [opNumber_eq_opField hfields]

/-- The legal words of operation n are those with no bit set between the operation and the operands (30_encoding.md R73). -/
theorem not_illegalWord_iff_div_operandBits (w : CmdWord) (n : Fin 8) : ¬ IllegalWord w ∧ w.toNat / 2 ^ 28 = n.val ↔
    w.toNat / 2 ^ operandBits n = n.val * 2 ^ (28 - operandBits n) := by
  simp only [IllegalWord, BitVec.toNat_ushiftRight, Nat.shiftRight_eq_div_pow]
  match n with
  | 0 | 1 | 2 | 3 | 4 | 5 | 6 | 7 =>
    simp only [operandBits]
    omega

/-! ### The step and the fetch interface (20_memory.md R55, R57, R59) -/

/-- A whole word of the table loses no bit at its 32 bits. -/
theorem ofNat_toNat_mod (w : CmdWord) : BitVec.ofNat 32 (w.toNat % 2 ^ 32) = w := by
  rw [Nat.mod_eq_of_lt w.isLt, BitVec.ofNat_toNat, BitVec.setWidth_eq]

/-- With no write protocol open, the next word is taken and the command it decodes to is run (20_memory.md R57, R59). -/
theorem step_of_decode_ok {s : State} {w : CmdWord} {ws : List CmdWord} {i : Instr} (hs : s.sending = none)
    (hc : s.cmds = w :: ws) (hi : decode w = .ok i) : step s = exec i (s.withCmds ws) := by
  simp only [step, hs, hc, hi]

theorem step_of_no_cmds {s : State} (hs : s.sending = none) (hc : s.cmds = []) : step s = .next s := by
  simp only [step, hs, hc, holdState]

theorem step_of_sending {s : State} {rest : List Byte} (hs : s.sending = some rest) : step s = deliver rest s := by
  simp only [step, hs]

/-! ### Assembler lines (30_encoding.md R75) -/

theorem assemble_of_not_wellFormed {l : AsmLine} (h : l.wellFormed = false) : assemble l = none :=
  if_neg (Bool.eq_false_iff.mp h)

theorem fitsByte_toNat (b : Byte) : fitsByte b.toNat = true := decide_eq_true (Nat.le_of_lt_succ b.isLt)

theorem fitsChecksum_toNat (v : Checksum) : fitsChecksum v.toNat = true := decide_eq_true (Nat.le_of_lt_succ v.isLt)

theorem fitsMsgId_toNat (id : MsgId) : fitsMsgId id.toNat = true := decide_eq_true (Nat.le_of_lt_succ id.isLt)

theorem fitsByte_eq_false {n : Nat} (h : 0xFF < n) : fitsByte n = false := decide_eq_false (Nat.not_le.mpr h)

theorem fitsChecksum_eq_false {n : Nat} (h : 0xFFFF < n) : fitsChecksum n = false := decide_eq_false (Nat.not_le.mpr h)

theorem fitsMsgId_eq_false {n : Nat} (h : 0xFFFFFF < n) : fitsMsgId n = false := decide_eq_false (Nat.not_le.mpr h)

theorem all_fitsByte_eq_false {bs : List Nat} {b : Nat} (hmem : b ∈ bs) (h : 0xFF < b) : bs.all fitsByte = false :=
  List.all_eq_false.mpr ⟨b, hmem, Bool.eq_false_iff.mp (fitsByte_eq_false h)⟩

end Sys2Proof.Machine
end

section
/-! PROOFS. The statements about decoding against encoding, the opcode table and the assembler (30_encoding.md section 1). -/

namespace Sys2Proof.Proofs

open Sys2Proof Sys2Proof.Machine

/-- Settles O2: the round trip of each command. -/
theorem decodeOfEncode : Obligations.DecodeOfEncode := by
  unfold Obligations.DecodeOfEncode
  intro i
  cases i with
  | reset => exact Laws.RoundTrip.reset.2
  | feed b => exact (Laws.RoundTrip.feed b).2
  | crcSeed => exact Laws.RoundTrip.crcSeed.2
  | crcLoad v => exact (Laws.RoundTrip.crcLoad v).2
  | crcByte b => exact (Laws.RoundTrip.crcByte b).2
  | crcSalt id => exact (Laws.RoundTrip.crcSalt id).2
  | lookup id => exact (Laws.RoundTrip.lookup id).2
  | sendHb seq sysid compid => exact (Laws.RoundTrip.sendHb seq sysid compid).2

/-- Settles O1: fourteen words, decoded. -/
theorem testVectorWordsDecode : Obligations.TestVectorWordsDecode := by
  unfold Obligations.TestVectorWordsDecode
  decide

/-- Settles O3: the fields of a legal word make up all of it. -/
theorem encodeOfDecode : Obligations.EncodeOfDecode := by
  unfold Obligations.EncodeOfDecode
  intro w i h
  obtain ⟨hrsv, hfields⟩ := decode_eq_ok_iff.mp h
  exact encode_of_hasFields hrsv hfields

/-- Settles O4: both sides say that the word shifted down by the operand bits is the shifted operation. -/
theorem decodeFollowsTheOpcodeTable : Obligations.DecodeFollowsTheOpcodeTable := by
  unfold Obligations.DecodeFollowsTheOpcodeTable
  intro w n
  have hfits : n.val * 2 ^ (28 - operandBits n) * 2 ^ operandBits n < 2 ^ 32 := by
    revert n
    decide
  rw [exists_decode_opNumber_iff, not_illegalWord_iff_div_operandBits, opcodeRows_eq, and_highMask_eq_iff hfits]

/-- Settles O8: the two branches of the step with no write protocol open. -/
theorem stepRunsTheIssuedCommand : Obligations.StepRunsTheIssuedCommand := by
  unfold Obligations.StepRunsTheIssuedCommand
  exact fun s hs => ⟨fun w ws i hc hi => step_of_decode_ok hs hc hi, fun hc => step_of_no_cmds hs hc⟩

/-- Settles O9: the stored word stands first and whole in the list the step takes from. -/
theorem fetchWordIsRunNext : Obligations.FetchWordIsRunNext := by
  unfold Obligations.FetchWordIsRunNext
  intro s w i hi
  constructor
  · rw [decodeTableWord, if_pos le_rfl, ofNat_toNat_mod, hi]
    rfl
  · rw [State.withFetchWord, ofNat_toNat_mod]
    exact step_of_decode_ok (s := issueNext s w) rfl rfl hi

/-- Settles O7: the operands of a line in range are cut to their own value, and one operand out of range makes the line
ill-formed. -/
theorem assemblerLinesInRangeOnly : Obligations.AssemblerLinesInRangeOnly := by
  unfold Obligations.AssemblerLinesInRangeOnly
  refine ⟨rfl, rfl, fun b => ⟨?feed, ?crcByte⟩, fun v => ?crcLoad, fun id => ⟨?crcSalt, ?lookup⟩,
    fun seq sysid compid => ?sendHb, fun bs hbs => ⟨?feeds, ?crcBuf⟩, fun b hb => ⟨?feedError, ?crcByteError⟩,
    fun v hv => ?crcLoadError, fun id hid => ⟨?crcSaltError, ?lookupError⟩, fun seq sysid compid h => ?sendHbError,
    fun bs b hmem hb => ⟨?feedsError, ?crcBufError⟩, rfl, rfl⟩
  case feed | crcByte | sendHb => simp [assemble, AsmLine.wellFormed, fitsByte_toNat]
  case crcLoad => simp [assemble, AsmLine.wellFormed, fitsChecksum_toNat]
  case crcSalt | lookup => simp [assemble, AsmLine.wellFormed, fitsMsgId_toNat]
  case feeds | crcBuf => simp [assemble, AsmLine.wellFormed, fitsByte_toNat, hbs]
  case feedError | crcByteError => exact assemble_of_not_wellFormed (fitsByte_eq_false hb)
  case crcLoadError => exact assemble_of_not_wellFormed (fitsChecksum_eq_false hv)
  case crcSaltError | lookupError => exact assemble_of_not_wellFormed (fitsMsgId_eq_false hid)
  case sendHbError =>
    apply assemble_of_not_wellFormed
    obtain h | h | h := h <;> simp [AsmLine.wellFormed, fitsByte_eq_false h]
  case feedsError | crcBufError =>
    apply assemble_of_not_wellFormed
    simp [AsmLine.wellFormed, all_fitsByte_eq_false hmem hb]

end Sys2Proof.Proofs
end

section
/-! PROOFS. The invariant of 10_state.md R29 and R30: every parse step keeps the parser's part, every delivery the part about an open
transfer, so every step and every run keeps both. -/

namespace Sys2Proof.Machine

/-! ### The parser's part -/

section Phases

variable {cfg : Config} {p : Parser} {b : Byte}

theorem Parser.inv_reset (cfg : Config) : (Parser.reset cfg.payloadCap).Inv cfg :=
  ⟨List.length_replicate, rfl, trivial, fun _ => rfl⟩

theorem Parser.Inv.hdrLen_eq (h : p.Inv cfg) : p.hdrLen = if p.v2 then hdrLenV2 else hdrLenV1 := by
  obtain ⟨-, hlen, -, -⟩ := h
  exact hlen

theorem Parser.Inv.in_checksumLow (h : p.Inv cfg) (hp : p.phase = .checksumLow) : p.FrameHeld cfg := by
  obtain ⟨-, -, hi, -⟩ := h
  simpa only [Parser.PhaseInv, hp] using hi

/-- Inside a frame the invariant is the buffer's length, the header's length and the phase's own condition. -/
theorem Parser.inv_of_inside (hpay : p.pay.length = cfg.payloadCap.toNat)
    (hlen : p.hdrLen = if p.v2 then hdrLenV2 else hdrLenV1) (hp : p.phase ≠ .waitSync) (hi : p.PhaseInv cfg) : p.Inv cfg :=
  ⟨hpay, hlen, hi, fun h => absurd h hp⟩

theorem stepWaitSync_inv (h : p.Inv cfg) : (stepWaitSync p b).Inv cfg := by
  unfold stepWaitSync
  split
  · exact Parser.inv_of_inside h.pay_length rfl nofun (by decide : 0 < hdrLenV2)
  · split
    · exact Parser.inv_of_inside h.pay_length rfl nofun (by decide : 0 < hdrLenV1)
    · exact h

/-- Below its bound, a cursor that does not reach the bound in one step is below it after the step. -/
theorem cursor_next_lt {w : Nat} {i n : BitVec w} (h : i < n) (hne : i + 1 ≠ n) : i + 1 < n := by
  have hwithin := (cursor_within_iff h).mpr hne
  have hone : (i + 1).toNat ≤ i.toNat + 1 := by
    rw [BitVec.toNat_add, BitVec.ofNat_eq_ofNat, BitVec.toNat_ofNat]
    exact (Nat.mod_le ..).trans (Nat.add_le_add_left (Nat.mod_le ..) _)
  exact Nat.lt_of_le_of_lt hone hwithin

theorem stepHeader_inv (h : p.Inv cfg) (hp : p.phase = .header) : (stepHeader cfg p b).Inv cfg := by
  by_cases hlast : p.hdrIdx + 1 = p.hdrLen
  case neg =>
    have hp' : (appendHeader p b).phase = .header := hp
    rw [stepHeader_within hlast]
    refine Parser.inv_of_inside h.pay_length h.hdrLen_eq (by rw [hp']; nofun) ?_
    simp only [Parser.PhaseInv, hp']
    exact cursor_next_lt (h.in_header hp) hlast
  case pos =>
    by_cases hover : cfg.payloadCap.toNat < p.hdr[0].toNat
    · rw [stepHeader_oversize h hlast hover]
      exact Parser.inv_reset cfg
    · have hcap : p.hdr[0] ≤ cfg.payloadCap := Nat.not_lt.mp hover
      rw [stepHeader_fits h hlast hcap]
      by_cases hzero : p.hdr[0] = 0
      · rw [if_pos hzero]
        exact Parser.inv_of_inside h.pay_length h.hdrLen_eq nofun ⟨hlast, hcap, hzero.symm⟩
      · have hpos : 0 < p.hdr[0].toNat := byte_pos_iff.mpr hzero
        rw [if_neg hzero]
        exact Parser.inv_of_inside h.pay_length h.hdrLen_eq nofun ⟨hlast, hpos, hcap, hpos⟩

theorem stepPayload_inv (h : p.Inv cfg) (hp : p.phase = .payload) : (stepPayload p b).Inv cfg := by
  obtain ⟨hheader, hpos, hcap, hidx⟩ := h.in_payload hp
  have hlength : (appendPayload p b).pay.length = cfg.payloadCap.toNat := appendPayload_length.trans h.pay_length
  rw [stepPayload_eq hp]
  by_cases hlast : p.payIdx + 1 = p.payLen
  · rw [if_pos hlast]
    exact Parser.inv_of_inside hlength h.hdrLen_eq nofun ⟨hheader, hcap, hlast⟩
  · rw [if_neg hlast]
    exact Parser.inv_of_inside hlength h.hdrLen_eq nofun ⟨hheader, hpos, hcap, cursor_next_lt hidx hlast⟩

theorem stepChecksumLow_inv (h : p.Inv cfg) (hp : p.phase = .checksumLow) : (stepChecksumLow p b).Inv cfg :=
  Parser.inv_of_inside h.pay_length h.hdrLen_eq nofun ⟨h.in_checksumLow hp, setWidth_high b⟩

theorem stepChecksumHigh_inv (h : p.Inv cfg) (hp : p.phase = .checksumHigh) : (stepChecksumHigh cfg p b).1.Inv cfg := by
  obtain ⟨hheld, -⟩ := h.in_checksumHigh hp
  by_cases ht : p.v2 = true ∧ p.signed = true
  · obtain ⟨hv2, hsigned⟩ := ht
    rw [stepChecksumHigh_trailer ⟨hv2, hsigned⟩]
    exact Parser.inv_of_inside h.pay_length h.hdrLen_eq nofun ⟨hheld, hv2, hsigned, (by decide : 0 < sigLen)⟩
  · rw [stepChecksumHigh_noTrailer ht]
    exact Parser.inv_reset cfg

theorem stepSignature_inv (h : p.Inv cfg) (hp : p.phase = .signature) : (stepSignature cfg p).1.Inv cfg := by
  obtain ⟨hheld, hv2, hsigned, hcnt⟩ := h.in_signature hp
  by_cases hlast : p.sigCnt + 1 = 13
  · rw [stepSignature_last hlast]
    exact Parser.inv_reset cfg
  · rw [stepSignature_within hlast]
    refine Parser.inv_of_inside h.pay_length h.hdrLen_eq (by rw [hp]; nofun) ?_
    simp only [Parser.PhaseInv, hp]
    exact ⟨hheld, hv2, hsigned, cursor_next_lt hcnt hlast⟩

/-- 10_state.md R29: whatever the byte, a parse step keeps the invariant. -/
theorem parseStep_inv (h : p.Inv cfg) : (parseStep cfg p b).1.Inv cfg := by
  cases hp : p.phase with
  | waitSync =>
    rw [parseStep_waitSync hp]
    exact stepWaitSync_inv h
  | header =>
    rw [parseStep_header hp]
    exact stepHeader_inv h hp
  | payload =>
    rw [parseStep_payload hp]
    exact stepPayload_inv h hp
  | checksumLow =>
    rw [parseStep_checksumLow hp]
    exact stepChecksumLow_inv h hp
  | checksumHigh =>
    rw [parseStep_checksumHigh hp]
    exact stepChecksumHigh_inv h hp
  | signature =>
    rw [parseStep_signature hp]
    exact stepSignature_inv h hp

end Phases

/-! ### The open transfer and the step -/

section Steps

variable {s t : State}

/-- The end of a frame that a delivery leaves is an end of the frame it was given an end of. -/
theorem deliver_sendingInv {rest : List Byte} {seq sysid compid : Byte} {k : Nat}
    (hrest : rest = (hbFrame s.cfg seq sysid compid).drop k) (h : deliver rest s = .next t) : t.SendingInv := by
  obtain ⟨-, rfl⟩ | ⟨-, rfl⟩ | ⟨hwaiting, rfl⟩ := deliver_next h
  · trivial
  · trivial
  · have hsplit := sinkSend_split s.sinkAnswers rest
    have hleft := sinkSend_verdict s.sinkAnswers rest
    simp only [hwaiting] at hleft
    obtain ⟨hne, -⟩ := hleft
    refine ⟨hne, seq, sysid, compid, k + (sinkSend rest s.sinkAnswers).accepted.length, ?_⟩
    calc (sinkSend rest s.sinkAnswers).rest
        = ((sinkSend rest s.sinkAnswers).accepted ++ (sinkSend rest s.sinkAnswers).rest).drop
            (sinkSend rest s.sinkAnswers).accepted.length := List.drop_left.symm
      _ = (hbFrame s.cfg seq sysid compid).drop (k + (sinkSend rest s.sinkAnswers).accepted.length) := by
          rw [hsplit, hrest, List.drop_drop]

theorem State.sendingInv_of_none (h : s.sending = none) : s.SendingInv := by
  simp only [State.SendingInv, h]

/-- A command taken with no transfer open keeps the invariant (10_state.md R29). -/
theorem exec_inv {i : Instr} (hs : s.sending = none) (hinv : s.parser.Inv s.cfg) (h : exec i s = .next t) : t.Inv := by
  cases i with
  | sendHb seq sysid compid =>
    rw [exec_sendHb] at h
    obtain ⟨hparser, -, hcfg, -⟩ := deliver_frame h
    exact ⟨by rw [hparser, hcfg]; exact hinv, deliver_sendingInv (k := 0) rfl h⟩
  | reset =>
    obtain rfl := Host.Outcome.next.inj h
    exact ⟨Parser.inv_reset s.cfg, State.sendingInv_of_none hs⟩
  | feed b =>
    obtain rfl := Host.Outcome.next.inj h
    exact ⟨parseStep_inv hinv, State.sendingInv_of_none hs⟩
  | crcSeed | crcLoad v | crcByte b | crcSalt id | lookup id =>
    obtain rfl := Host.Outcome.next.inj h
    exact ⟨hinv, State.sendingInv_of_none hs⟩

theorem step_inv (hinv : s.Inv) (h : step s = .next t) : t.Inv := by
  obtain ⟨hparser, hsending⟩ := hinv
  obtain ⟨rest, hs, hdeliver⟩ | ⟨-, -, rfl⟩ | ⟨w, ws, i, hs, -, -, hexec⟩ | ⟨w, ws, e, -, -, -, rfl⟩ := step_next h
  · obtain ⟨hparser', -, hcfg, -⟩ := deliver_frame hdeliver
    simp only [State.SendingInv, hs] at hsending
    obtain ⟨-, seq, sysid, compid, k, hrest⟩ := hsending
    exact ⟨by rw [hparser', hcfg]; exact hparser, deliver_sendingInv hrest hdeliver⟩
  · exact ⟨hparser, hsending⟩
  · exact exec_inv (s := s.withCmds ws) hs hparser hexec
  · exact ⟨hparser, hsending⟩

theorem powerOn_inv (cfg : Config) : (State.powerOn cfg).Inv := ⟨Parser.inv_reset cfg, trivial⟩

/-- The invariant holds in every state a run reaches, under the configuration the run started with. -/
theorem Reachable.inv {cfg : Config} (h : Reachable cfg s) : s.cfg = cfg ∧ s.Inv := by
  induction h with
  | powerOn => exact ⟨rfl, powerOn_inv cfg⟩
  | input s ws as _ ih => exact ih
  | step s t _ hstep ih =>
    obtain ⟨hcfg, hinv⟩ := ih
    exact ⟨(step_keeps_cfg hstep).trans hcfg, step_inv hinv hstep⟩

/-- The conditions of the phases after the header: the declared length fits the buffer, and no more bytes are held. -/
theorem Parser.Inv.after_header {cfg : Config} {p : Parser} (h : p.Inv cfg) (hw : p.phase ≠ .waitSync)
    (hh : p.phase ≠ .header) : p.hdrIdx = p.hdrLen ∧ p.payIdx.toNat ≤ p.payLen.toNat
      ∧ p.payLen.toNat ≤ cfg.payloadCap.toNat := by
  have of_held : p.FrameHeld cfg → p.hdrIdx = p.hdrLen ∧ p.payIdx.toNat ≤ p.payLen.toNat
      ∧ p.payLen.toNat ≤ cfg.payloadCap.toNat := by
    rintro ⟨hheader, hcap, hidx⟩
    exact ⟨hheader, (congrArg BitVec.toNat hidx).le, hcap⟩
  cases hp : p.phase with
  | waitSync => exact absurd hp hw
  | header => exact absurd hp hh
  | payload =>
    obtain ⟨hheader, -, hcap, hidx⟩ := h.in_payload hp
    exact ⟨hheader, Nat.le_of_lt hidx, hcap⟩
  | checksumLow => exact of_held (h.in_checksumLow hp)
  | checksumHigh => exact of_held (h.in_checksumHigh hp).1
  | signature => exact of_held (h.in_signature hp).1

/-- The header cursor never leaves the header buffer (10_state.md R30). -/
theorem Parser.Inv.hdrIdx_le_nine {cfg : Config} {p : Parser} (h : p.Inv cfg) : p.hdrIdx.toNat ≤ 9 := by
  by_cases hw : p.phase = .waitSync
  · rw [h.eq_reset hw]
    exact Nat.zero_le 9
  · by_cases hh : p.phase = .header
    · exact (h.hdrIdx_lt_nine hh).le
    · obtain ⟨hheader, -⟩ := h.after_header hw hh
      rw [hheader]
      obtain ⟨-, hlen⟩ | ⟨-, hlen⟩ := h.hdrLen_cases <;> rw [hlen] <;> decide

end Steps

end Sys2Proof.Machine
end

section
/-! PROOFS. The statements about the invariant (10_state.md section 4). -/

namespace Sys2Proof.Proofs

open Sys2Proof Sys2Proof.Machine

/-- Settles O38: each thing a step can do keeps the invariant. -/
theorem stepKeepsTheInvariant : Obligations.StepKeepsTheInvariant := by
  unfold Obligations.StepKeepsTheInvariant
  exact fun s t => step_inv

/-- Settles O37: the reset values are WaitSync with nothing open. -/
theorem powerOnMeetsTheInvariant : Obligations.PowerOnMeetsTheInvariant := by
  unfold Obligations.PowerOnMeetsTheInvariant
  exact ⟨powerOn_inv, powerOn_inv Config.deployed⟩

/-- Settles O39: the bounds are those of the invariant. -/
theorem reachableBufferWritesAreInRange : Obligations.ReachableBufferWritesAreInRange := by
  unfold Obligations.ReachableBufferWritesAreInRange
  intro cfg s hreach
  obtain ⟨rfl, hinv, -⟩ := hreach.inv
  refine ⟨rfl, hinv.hdrIdx_le_nine, hinv.pay_length, hinv.hdrIdx_lt_nine, fun hp => ?payload, fun hw hh => ?held⟩
  case payload =>
    rw [hinv.pay_length]
    exact hinv.payIdx_lt_payloadCap hp
  case held =>
    obtain ⟨-, hheld⟩ := hinv.after_header hw hh
    exact hheld

end Sys2Proof.Proofs
end

section
/-! PROOFS. The checksum step as a linear map over GF(2) (40_checksum.md R103, section 3): with linearity, an equation about it for all
checksums and bytes is one about the shift of a checksum and one about the 256 bytes. -/

namespace Sys2Proof.Machine

theorem xor_xor_xor_comm {w : Nat} (x y z u : BitVec w) : x ^^^ y ^^^ (z ^^^ u) = x ^^^ z ^^^ (y ^^^ u) := by
  rw [BitVec.xor_assoc, BitVec.xor_assoc, ← BitVec.xor_assoc y, ← BitVec.xor_assoc z, BitVec.xor_comm y]

/-- The byte tmp of 40_checksum.md R100, from the byte the step folds in. -/
def crcTmp (x : Byte) : Byte := x ^^^ x <<< 4

/-- The three places of 40_checksum.md R100 that tmp goes to. -/
def crcSpread (tmp : Byte) : Checksum := tmp.setWidth 16 <<< 8 ^^^ tmp.setWidth 16 <<< 3 ^^^ tmp.setWidth 16 >>> 4

theorem crcStep_eq_spread (c : Checksum) (b : Byte) :
    crcStep c b = c >>> 8 ^^^ crcSpread (crcTmp (b ^^^ c.extractLsb' 0 8)) := by
  simp only [crcStep, crcSpread, crcTmp, BitVec.xor_assoc]

theorem crcTmp_xor (x y : Byte) : crcTmp (x ^^^ y) = crcTmp x ^^^ crcTmp y := by
  rw [crcTmp, BitVec.shiftLeft_xor_distrib, xor_xor_xor_comm, crcTmp, crcTmp]

theorem crcSpread_xor (x y : Byte) : crcSpread (x ^^^ y) = crcSpread x ^^^ crcSpread y := by
  simp only [crcSpread, BitVec.setWidth_xor, BitVec.shiftLeft_xor_distrib, BitVec.ushiftRight_xor_distrib]
  rw [xor_xor_xor_comm (x.setWidth 16 <<< 8), xor_xor_xor_comm (x.setWidth 16 <<< 8 ^^^ x.setWidth 16 <<< 3)]

theorem crcStep_xor (c1 c2 : Checksum) (b1 b2 : Byte) :
    crcStep (c1 ^^^ c2) (b1 ^^^ b2) = crcStep c1 b1 ^^^ crcStep c2 b2 := by
  simp only [crcStep_eq_spread, BitVec.extractLsb'_xor, BitVec.ushiftRight_xor_distrib]
  rw [xor_xor_xor_comm b1, crcTmp_xor, crcSpread_xor, xor_xor_xor_comm]

/-- The step is the checksum shifted down by a byte, with the step of its low byte and the byte folded in. -/
theorem crcStep_eq_xor (c : Checksum) (b : Byte) : crcStep c b = c >>> 8 ^^^ crcStep 0#16 (c.setWidth 8 ^^^ b) := by
  rw [← crcStep_lowByte, ← crcStep_xor, BitVec.xor_zero, ← BitVec.xor_assoc, BitVec.xor_self, BitVec.zero_xor]

/-- No byte but 0 has the step 0. -/
theorem crcStep_zero_eq_zero_iff : ∀ b : Byte, crcStep 0#16 b = 0#16 ↔ b = 0#8 := by
  decide

theorem crcStep_right_inj {c : Checksum} {x y : Byte} : crcStep c x = crcStep c y ↔ x = y := by
  have hxor : crcStep c x ^^^ crcStep c y = crcStep 0#16 (x ^^^ y) := by
    rw [← crcStep_xor, BitVec.xor_self]
  rw [← BitVec.xor_eq_zero_iff, hxor, crcStep_zero_eq_zero_iff, BitVec.xor_eq_zero_iff]

/-! ### The bitwise reflected CRC (40_checksum.md R103) -/

/-- What a bit step folds in for the bit it shifts out. -/
def crcFeedback (out : Bool) : Checksum := if out then 0x8408 else 0

theorem crcBit_eq (c : Checksum) : crcBit c = c >>> 1 ^^^ crcFeedback (c.getLsbD 0) := by
  rw [crcBit, crcFeedback]
  split
  · rfl
  · rw [BitVec.ofNat_eq_ofNat, BitVec.xor_zero]

theorem crcFeedback_xor : ∀ x y : Bool, crcFeedback (x ^^ y) = crcFeedback x ^^^ crcFeedback y := by
  decide

theorem crcBit_xor (c1 c2 : Checksum) : crcBit (c1 ^^^ c2) = crcBit c1 ^^^ crcBit c2 := by
  simp only [crcBit_eq, BitVec.getLsbD_xor, BitVec.ushiftRight_xor_distrib, crcFeedback_xor]
  exact xor_xor_xor_comm ..

theorem iterate_crcBit_xor (n : Nat) (c1 c2 : Checksum) :
    crcBit^[n] (c1 ^^^ c2) = crcBit^[n] c1 ^^^ crcBit^[n] c2 := by
  induction n generalizing c1 c2 with
  | zero => rfl
  | succ n ih => simp only [Function.iterate_succ_apply, crcBit_xor, ih]

/-- While the low n bits are 0, n bit steps only shift. -/
theorem iterate_crcBit_of_low_zero (n : Nat) (c : Checksum) (h : ∀ i < n, c.getLsbD i = false) :
    crcBit^[n] c = c >>> n := by
  induction n generalizing c with
  | zero => rw [Function.iterate_zero_apply, BitVec.ushiftRight_zero]
  | succ n ih =>
    have hbit : crcBit c = c >>> 1 := by
      rw [crcBit, h 0 n.succ_pos]
      rfl
    rw [Function.iterate_succ_apply, hbit, ih, ← BitVec.shiftRight_add, Nat.add_comm]
    intro i hi
    rw [BitVec.getLsbD_ushiftRight]
    exact h (1 + i) (by omega)

theorem xor_low_byte (c : Checksum) : c >>> 8 <<< 8 ^^^ (c.setWidth 8).setWidth 16 = c := by
  ext i hi
  by_cases h : i < 8
  · simp [h, BitVec.getLsbD_eq_getElem hi]
  · have hadd : 8 + (i - 8) = i := by omega
    simp [h, hadd, BitVec.getLsbD_eq_getElem hi]

/-- The bytes one at a time: the table of the reflected CRC is the step's. -/
theorem crcBitwise_zero_eq : ∀ b : Byte, crcBit^[8] (b.setWidth 16) = crcStep 0#16 b := by
  decide

theorem crcBitwise_eq_xor (c : Checksum) (b : Byte) :
    crcBitwise c b = c >>> 8 ^^^ crcStep 0#16 (c.setWidth 8 ^^^ b) := by
  have hsplit : c ^^^ b.setWidth 16 = c >>> 8 <<< 8 ^^^ (c.setWidth 8 ^^^ b).setWidth 16 := by
    rw [BitVec.setWidth_xor, ← BitVec.xor_assoc, xor_low_byte]
  have hlow : ∀ i < 8, (c >>> 8 <<< 8).getLsbD i = false := fun i hi => by simp [hi]
  have hshift : c >>> 8 <<< 8 >>> 8 = c >>> 8 := by
    apply BitVec.eq_of_toNat_eq
    simp only [BitVec.toNat_ushiftRight, BitVec.toNat_shiftLeft, Nat.shiftLeft_eq, Nat.shiftRight_eq_div_pow]
    omega
  calc crcBitwise c b = crcBit^[8] (c >>> 8 <<< 8) ^^^ crcBit^[8] ((c.setWidth 8 ^^^ b).setWidth 16) := by
        rw [crcBitwise, hsplit, iterate_crcBit_xor]
    _ = c >>> 8 ^^^ crcStep 0#16 (c.setWidth 8 ^^^ b) := by
        rw [iterate_crcBit_of_low_zero 8 _ hlow, hshift, crcBitwise_zero_eq]

end Sys2Proof.Machine
end

section
/-! PROOFS. The statements about the checksum step and fold (40_checksum.md). -/

namespace Sys2Proof.Proofs

open Sys2Proof Sys2Proof.Machine

/-- Settles O11: by linearity both sides are the shift of the checksum and the table entry of one byte. -/
theorem crcStepIsTheReflectedCrc : Obligations.CrcStepIsTheReflectedCrc := by
  unfold Obligations.CrcStepIsTheReflectedCrc
  intro c b
  rw [crcStep_eq_xor, crcBitwise_eq_xor]

/-- Settles O13: shifts, widenings and cuts distribute over XOR. -/
theorem crcStepIsLinear : Obligations.CrcStepIsLinear := by
  unfold Obligations.CrcStepIsLinear
  exact crcStep_xor

/-- Settles O14: by linearity the two differ by the step of their XOR, which is 0 for no byte but 0. -/
theorem differentSaltsGiveDifferentChecksums : Obligations.DifferentSaltsGiveDifferentChecksums := by
  unfold Obligations.DifferentSaltsGiveDifferentChecksums
  exact fun c x y h => crcStep_right_inj.mp h

/-- Settles O12: a fold over an append. -/
theorem crcFoldIsIncremental : Obligations.CrcFoldIsIncremental := by
  unfold Obligations.CrcFoldIsIncremental
  exact fun c xs ys => List.foldl_append.symm

/-- Settles O15: the values, computed. -/
theorem crcKnownVectors : Obligations.CrcKnownVectors := by
  unfold Obligations.CrcKnownVectors
  decide

end Sys2Proof.Proofs
end

section
/-! PROOFS. The write protocol by what the sink's answers do (43_encoder.md R195): what a run has accepted and left of the frame, a run
that answers make progress in without ending it, going on with later answers, and when a delivery stops the block. -/

namespace Sys2Proof.Machine

section Deliveries

variable {rest : List Byte} {answers : List SinkAnswer} {s t : State}

/-! ### What a run has accepted and left -/

theorem sinkSend_accepted_eq_take (rest : List Byte) (answers : List SinkAnswer) :
    (sinkSend rest answers).accepted = rest.take (sinkSend rest answers).accepted.length :=
  List.prefix_iff_eq_take.mp ⟨_, sinkSend_split answers rest⟩

theorem sinkSend_rest_eq_drop (rest : List Byte) (answers : List SinkAnswer) :
    (sinkSend rest answers).rest = rest.drop (sinkSend rest answers).accepted.length := by
  have hdrop : ((sinkSend rest answers).accepted ++ (sinkSend rest answers).rest).drop
      (sinkSend rest answers).accepted.length = (sinkSend rest answers).rest := List.drop_left
  rw [sinkSend_split] at hdrop
  exact hdrop.symm

theorem sinkSend_accepted_length_add (rest : List Byte) (answers : List SinkAnswer) :
    (sinkSend rest answers).accepted.length + (sinkSend rest answers).rest.length = rest.length := by
  rw [← List.length_append, sinkSend_split]

/-- The response of a delivery and whether it stays open, with how much of what it offered the sink has accepted. -/
theorem deliver_outcome (h : deliver rest s = .next t) :
    ∃ k, k ≤ rest.length ∧ t.sinkBytes = s.sinkBytes ++ rest.take k
      ∧ ((k = rest.length ∧ t.sending = none ∧ t.responses = s.responses ++ [bareResponse .ok])
        ∨ (k < rest.length ∧ t.sending = none ∧ t.responses = s.responses ++ [bareResponse .sendFail])
        ∨ (k < rest.length ∧ t.sending = some (rest.drop k) ∧ t.responses = s.responses)) := by
  have hlength := sinkSend_accepted_length_add rest s.sinkAnswers
  have hverdict := sinkSend_verdict s.sinkAnswers rest
  refine ⟨(sinkSend rest s.sinkAnswers).accepted.length, by omega, ?_⟩
  rw [← sinkSend_accepted_eq_take, ← sinkSend_rest_eq_drop]
  obtain ⟨hv, rfl⟩ | ⟨hv, rfl⟩ | ⟨hv, rfl⟩ := deliver_next h <;> simp only [hv] at hverdict
  · rw [hverdict, List.length_nil, Nat.add_zero] at hlength
    exact ⟨rfl, .inl ⟨hlength, rfl, rfl⟩⟩
  · have hpos := List.length_pos_iff.mpr hverdict
    exact ⟨rfl, .inr (.inl ⟨by omega, rfl, rfl⟩)⟩
  · obtain ⟨hne, -⟩ := hverdict
    have hpos := List.length_pos_iff.mpr hne
    exact ⟨rfl, .inr (.inr ⟨by omega, rfl, rfl⟩)⟩

/-! ### Answers that do not end the run -/

theorem drop_ne_nil (h : acceptedTotal answers < rest.length) : rest.drop (acceptedTotal answers) ≠ [] := by
  simpa using h

/-- Answers that make progress and leave something to send leave the run open (70_reset_and_hazards.md R275). -/
theorem sinkSend_of_progressing (hp : progressing answers = true) (ht : acceptedTotal answers < rest.length) :
    sinkSend rest answers = ⟨remaindersOffered rest answers answers.length, rest.take (acceptedTotal answers),
      rest.drop (acceptedTotal answers), [], .waiting⟩ := by
  have h := sinkSend_after_progress answers [] rest hp ht
  rwa [List.append_nil, sinkSend_noAnswer (drop_ne_nil ht), List.append_nil, List.append_nil] at h

/-- A run is left open only by such answers. -/
theorem progressing_of_waiting (h : (sinkSend rest answers).verdict = .waiting) :
    progressing answers = true ∧ acceptedTotal answers < rest.length := by
  induction answers generalizing rest with
  | nil =>
    by_cases hne : rest = []
    · subst hne
      cases h
    · exact ⟨rfl, List.length_pos_iff.mpr hne⟩
  | cons a answers ih =>
    by_cases hne : rest = []
    · subst hne
      rw [sinkSend_empty] at h
      cases h
    · cases a with
      | accepted n =>
        by_cases hn : 1 ≤ n ∧ n ≤ rest.length
        · obtain ⟨hpos, hle⟩ := hn
          rw [sinkSend_accepted answers hpos hle] at h
          obtain ⟨hp, ht⟩ := ih h
          rw [List.length_drop] at ht
          exact ⟨by simp [hpos, hp], by rw [acceptedTotal_accepted]; omega⟩
        · rw [sinkSend_lawless answers hne hn] at h
          cases h
      | interrupted =>
        rw [sinkSend_interrupted answers hne] at h
        obtain ⟨hp, ht⟩ := ih h
        exact ⟨hp, by rwa [acceptedTotal_interrupted]⟩
      | fault =>
        rw [sinkSend_fault answers hne] at h
        cases h

/-- The last attempt takes all that the attempts before it have left. -/
theorem sinkSend_accepted_after_progress {n : Nat} (later : List SinkAnswer) (hp : progressing answers = true)
    (hn : 1 ≤ n) (ht : acceptedTotal answers + n = rest.length) : sinkSend rest (answers ++ .accepted n :: later) =
      ⟨remaindersOffered rest answers (answers.length + 1), rest, [], later, .done⟩ := by
  have hlt : acceptedTotal answers < rest.length := by omega
  have hlast : (rest.drop (acceptedTotal answers)).length = n := by
    rw [List.length_drop]
    omega
  have hall := sinkSend_accepted_all later (drop_ne_nil hlt)
  rw [hlast] at hall
  rw [sinkSend_after_progress answers _ rest hp hlt, hall, remaindersOffered_last, List.take_append_drop]

/-- A run left open goes on over later answers as if all had been at hand at once. -/
theorem deliver_resume (later : List SinkAnswer) (h : (sinkSend rest s.sinkAnswers).verdict = .waiting) :
    deliver (sinkSend rest s.sinkAnswers).rest
        { s.withDelivery (sinkSend rest s.sinkAnswers) (some (sinkSend rest s.sinkAnswers).rest) with sinkAnswers := later }
      = deliver rest { s with sinkAnswers := s.sinkAnswers ++ later } := by
  obtain ⟨hp, ht⟩ := progressing_of_waiting h
  rw [sinkSend_of_progressing hp ht, deliver, deliver, sinkSend_after_progress s.sinkAnswers later rest hp ht]
  cases hv : (sinkSend (rest.drop (acceptedTotal s.sinkAnswers)) later).verdict <;>
    simp only [endDelivery, hv, State.withDelivery, List.append_assoc]

/-! ### When a delivery stops (00_scope.md R9) -/

theorem deliver_of_breaksTheLaw (h : BreaksTheLaw rest.length s.sinkAnswers) :
    deliver rest s = .fault .sinkAnswerOutOfRange :=
  deliver_of_outOfRange ((sinkSend_outOfRange_iff ..).mpr h)

theorem deliver_of_lawful (h : ¬ BreaksTheLaw rest.length s.sinkAnswers) : ∃ t, deliver rest s = .next t := by
  cases hv : (sinkSend rest s.sinkAnswers).verdict with
  | done => exact ⟨_, deliver_of_done hv⟩
  | failed => exact ⟨_, deliver_of_failed hv⟩
  | waiting => exact ⟨_, deliver_of_waiting hv⟩
  | outOfRange => exact absurd ((sinkSend_outOfRange_iff ..).mp hv) h

/-- A delivery reads no part of the configuration. -/
theorem deliver_withCfg (c : Config) (h : deliver rest s = .next t) :
    deliver rest { s with cfg := c } = .next { t with cfg := c } := by
  obtain ⟨hv, rfl⟩ | ⟨hv, rfl⟩ | ⟨hv, rfl⟩ := deliver_next h
  · exact deliver_of_done (s := { s with cfg := c }) hv
  · exact deliver_of_failed (s := { s with cfg := c }) hv
  · exact deliver_of_waiting (s := { s with cfg := c }) hv

end Deliveries

end Sys2Proof.Machine
end

section
/-! PROOFS. The statements about SEND_HB over the sink's answers (43_encoder.md section 3, 70_reset_and_hazards.md section 2). -/

namespace Sys2Proof.Proofs

open Sys2Proof Sys2Proof.Machine

/-- Settles O10: an open transfer's step is a delivery, which writes only the sink's side and the response that ends it. -/
theorem openTransferTakesNoCommand : Obligations.OpenTransferTakesNoCommand := by
  unfold Obligations.OpenTransferTakesNoCommand
  intro s t rest hs h
  rw [step_of_sending hs] at h
  obtain ⟨hparser, hacc, hcfg, hcmds⟩ := deliver_frame h
  refine ⟨hcmds, hcfg, hparser, hacc, ?_⟩
  obtain ⟨k, -, -, ⟨-, hend, hresp⟩ | ⟨-, hend, hresp⟩ | ⟨-, hopen, hresp⟩⟩ := deliver_outcome h
  · exact .inr ⟨hend, .ok, .inl rfl, hresp⟩
  · exact .inr ⟨hend, .sendFail, .inr rfl, hresp⟩
  · exact .inl ⟨_, hopen, hresp⟩

/-- Settles O46: the run makes progress up to the last answer, which takes all that is left. -/
theorem sendHbDeliversTheWholeFrame : Obligations.SendHbDeliversTheWholeFrame := by
  unfold Obligations.SendHbDeliversTheWholeFrame
  intro s seq sysid compid answers later n hp hn ht hs
  rw [← hbFrame_length s.cfg seq sysid compid] at ht
  have hrun := sinkSend_accepted_after_progress later hp hn ht
  rw [← hs] at hrun
  rw [exec_sendHb, deliver_of_done (by rw [hrun]), hrun]
  rfl

/-- Settles O48: answers that only make progress leave the run open at the rest of the frame. -/
theorem sendHbWithoutAFinalAnswerStaysOpen : Obligations.SendHbWithoutAFinalAnswerStaysOpen := by
  unfold Obligations.SendHbWithoutAFinalAnswerStaysOpen
  intro s seq sysid compid hp ht
  rw [← hbFrame_length s.cfg seq sysid compid] at ht
  have hrun := sinkSend_of_progressing hp ht
  rw [exec_sendHb, deliver_of_waiting (by rw [hrun]), hrun]
  rfl

/-- Settles O50: the three ways a delivery goes on, with k the number of bytes accepted. -/
theorem sinkHoldsABeginningOfTheFrame : Obligations.SinkHoldsABeginningOfTheFrame := by
  unfold Obligations.SinkHoldsABeginningOfTheFrame
  intro s t seq sysid compid h
  rw [exec_sendHb] at h
  obtain ⟨k, hk, hbytes, hend⟩ := deliver_outcome h
  rw [hbFrame_length] at hk hend
  refine ⟨k, hk, hbytes, ?_⟩
  obtain ⟨rfl, hsending, hresp⟩ | ⟨hlt, hsending, hresp⟩ | ⟨hlt, hsending, hresp⟩ := hend
  · exact ⟨iff_of_true rfl ⟨hsending, hresp⟩, fun h => absurd h (by decide)⟩
  · refine ⟨iff_of_false hlt.ne ?_, fun _ => .inr ⟨hsending, hresp⟩⟩
    simp [hresp, bareResponse]
  · refine ⟨iff_of_false hlt.ne ?_, fun _ => .inl ⟨hsending, hresp⟩⟩
    simp [hresp]

/-- Settles O51: only a waiting run leaves the transfer open, and `deliver_resume` says how it goes on. -/
theorem openTransferResumesWhereItStood : Obligations.OpenTransferResumesWhereItStood := by
  unfold Obligations.OpenTransferResumesWhereItStood
  intro s t seq sysid compid later h hopen
  rw [exec_sendHb] at h
  obtain ⟨-, rfl⟩ | ⟨-, rfl⟩ | ⟨hwaiting, rfl⟩ := deliver_next h
  · exact absurd rfl hopen
  · exact absurd rfl hopen
  · rw [step_of_sending rfl, deliver_resume later hwaiting, exec_sendHb]

end Sys2Proof.Proofs
end

section
/-! PROOFS. The commands all together: what each writes and answers, which steps stop, and that DZ_BASE is not read (10_state.md
section 3, 20_memory.md section 1, 60_exceptions.md section 1). -/

namespace Sys2Proof.Machine

variable {i : Instr} {s t : State}

/-! ### Commands that go on, and the one that can stop -/

/-- Every command but SEND_HB goes on, whatever the state. -/
theorem exec_next_of_opNumber_ne (h : opNumber i ≠ 7) (s : State) : ∃ t, exec i s = .next t := by
  cases i with
  | sendHb seq sysid compid => exact absurd rfl h
  | reset => exact ⟨_, exec_reset s⟩
  | feed b => exact ⟨_, exec_feed b s⟩
  | crcSeed => exact ⟨_, exec_crcSeed s⟩
  | crcLoad v => exact ⟨_, exec_crcLoad v s⟩
  | crcByte b => exact ⟨_, exec_crcByte b s⟩
  | crcSalt id => exact ⟨_, exec_crcSalt_of_registryLookup rfl⟩
  | lookup id => exact ⟨_, exec_lookup_of_registryLookup rfl⟩

theorem exists_sendHb_of_opNumber (h : opNumber i = 7) : ∃ seq sysid compid, i = .sendHb seq sysid compid := by
  cases i with
  | sendHb seq sysid compid => exact ⟨seq, sysid, compid, rfl⟩
  | reset | feed b | crcSeed | crcLoad v | crcByte b | crcSalt id | lookup id => cases h

theorem exec_ne_refused (i : Instr) (s : State) (r : Refusal) : exec i s ≠ .refused r := by
  by_cases h7 : opNumber i = 7
  · obtain ⟨seq, sysid, compid, rfl⟩ := exists_sendHb_of_opNumber h7
    exact deliver_ne_refused _ s r
  · obtain ⟨t, ht⟩ := exec_next_of_opNumber_ne h7 s
    rw [ht]
    nofun

/-- With no transfer open a step holds, runs the command taken, or answers ILLEGAL. -/
theorem step_cases_of_not_sending (hs : s.sending = none) :
    step s = .next s
      ∨ (∃ w ws i, s.cmds = w :: ws ∧ decode w = .ok i ∧ step s = exec i (s.withCmds ws))
      ∨ (∃ ws, step s = .next ((s.withCmds ws).respond (bareResponse .illegal))) := by
  cases hc : s.cmds with
  | nil => exact .inl (step_of_no_cmds hs hc)
  | cons w ws =>
    cases hd : decode w with
    | ok i => exact .inr (.inl ⟨w, ws, i, rfl, hd, step_of_decode_ok hs hc hd⟩)
    | error e => exact .inr (.inr ⟨ws, step_of_decode_error hs hc hd⟩)

theorem step_ne_refused (s : State) (r : Refusal) : step s ≠ .refused r := by
  cases hs : s.sending with
  | some rest =>
    rw [step_of_sending hs]
    exact deliver_ne_refused rest s r
  | none =>
    obtain h | ⟨w, ws, i, -, -, h⟩ | ⟨ws, h⟩ := step_cases_of_not_sending hs <;> rw [h]
    · nofun
    · exact exec_ne_refused i _ r
    · nofun

/-- Only a SEND_HB taken with a lawless sink stops a step with no transfer open. -/
theorem sendHb_of_step_fault {f : Fault} (hs : s.sending = none) (h : step s = .fault f) :
    ∃ w ws seq sysid compid, s.cmds = w :: ws ∧ decode w = .ok (.sendHb seq sysid compid)
      ∧ BreaksTheLaw 21 s.sinkAnswers := by
  obtain hstep | ⟨w, ws, i, hc, hd, hstep⟩ | ⟨ws, hstep⟩ := step_cases_of_not_sending hs <;> rw [hstep] at h
  · cases h
  · by_cases h7 : opNumber i = 7
    · obtain ⟨seq, sysid, compid, rfl⟩ := exists_sendHb_of_opNumber h7
      refine ⟨w, ws, seq, sysid, compid, hc, hd, ?_⟩
      by_contra hlaw
      rw [← hbFrame_length s.cfg seq sysid compid] at hlaw
      obtain ⟨t, ht⟩ := deliver_of_lawful (s := s.withCmds ws) hlaw
      rw [exec_sendHb, State.withCmds_cfg, ht] at h
      cases h
    · obtain ⟨t, ht⟩ := exec_next_of_opNumber_ne h7 (s.withCmds ws)
      rw [ht] at h
      cases h
  · cases h

/-! ### What a response carries (30_encoding.md R76) -/

/-- The fields R76 lists for the command i, with acc the accumulator it leaves. -/
def FieldsOf (i : Instr) (acc : Checksum) (r : Response) : Prop :=
  r.status ≠ .illegal
    ∧ (r.status = .sendFail → opNumber i = 7)
    ∧ (r.msg ≠ none → opNumber i = 1)
    ∧ (2 ≤ opNumber i ∧ opNumber i ≤ 5 → r.acc = some acc)
    ∧ (¬ (2 ≤ opNumber i ∧ opNumber i ≤ 5) → r.acc = none)
    ∧ (r.found ≠ none ↔ opNumber i = 5 ∨ opNumber i = 6)
    ∧ (r.salt ≠ none ↔ r.found = some true)

theorem fieldsOf_bareResponse_ok (acc : Checksum) (h : opNumber i = 0 ∨ opNumber i = 7) :
    FieldsOf i acc (bareResponse .ok) := by
  obtain h | h := h <;> simp [FieldsOf, bareResponse, h]

theorem fieldsOf_bareResponse_sendFail (acc : Checksum) (h : opNumber i = 7) :
    FieldsOf i acc (bareResponse .sendFail) := by
  simp [FieldsOf, bareResponse, h]

theorem fieldsOf_msgResponse (acc : Checksum) (m : Option Message) (b : Byte) :
    FieldsOf (.feed b) acc (msgResponse m) := by
  simp [FieldsOf, msgResponse, bareResponse, opNumber]

theorem fieldsOf_accResponse (acc : Checksum) (h : 2 ≤ opNumber i ∧ opNumber i ≤ 4) :
    FieldsOf i acc (accResponse acc) := by
  obtain ⟨h2, h4⟩ := h
  exact ⟨nofun, nofun, fun hm => absurd rfl hm, fun _ => rfl, fun hn => absurd ⟨h2, h4.trans (by decide)⟩ hn,
    iff_of_false (fun hf => hf rfl) (by omega), iff_of_false (fun hs => hs rfl) nofun⟩

theorem fieldsOf_lookupResponse (acc : Checksum) (salt : Option Byte) (id : MsgId) :
    FieldsOf (.lookup id) acc (lookupResponse salt) := by
  cases salt <;> simp [FieldsOf, lookupResponse, bareResponse, opNumber]

theorem fieldsOf_saltResponse (acc : Checksum) (salt : Option Byte) (id : MsgId) :
    FieldsOf (.crcSalt id) acc (saltResponse acc salt) := by
  cases salt <;> simp [FieldsOf, saltResponse, lookupResponse, bareResponse, opNumber]

/-- Every command that goes on answers with its fields, or is a SEND_HB left open. -/
theorem exec_response (h : exec i s = .next t) :
    (t.responses = s.responses ∧ t.sending ≠ none ∧ opNumber i = 7)
      ∨ ∃ r, t.responses = s.responses ++ [r] ∧ FieldsOf i t.crcAcc r := by
  cases i with
  | sendHb seq sysid compid =>
    rw [exec_sendHb] at h
    obtain ⟨k, -, -, ⟨-, -, hresp⟩ | ⟨-, -, hresp⟩ | ⟨-, hopen, hresp⟩⟩ := deliver_outcome h
    · exact .inr ⟨_, hresp, fieldsOf_bareResponse_ok _ (.inr rfl)⟩
    · exact .inr ⟨_, hresp, fieldsOf_bareResponse_sendFail _ rfl⟩
    · exact .inl ⟨hresp, by rw [hopen]; nofun, rfl⟩
  | reset =>
    obtain rfl := Host.Outcome.next.inj h
    exact .inr ⟨_, rfl, fieldsOf_bareResponse_ok _ (.inl rfl)⟩
  | feed b =>
    obtain rfl := Host.Outcome.next.inj h
    exact .inr ⟨_, rfl, fieldsOf_msgResponse _ _ b⟩
  | crcSeed | crcLoad v | crcByte b =>
    obtain rfl := Host.Outcome.next.inj h
    exact .inr ⟨_, rfl, fieldsOf_accResponse _ (by simp [opNumber])⟩
  | crcSalt id =>
    obtain rfl := Host.Outcome.next.inj h
    exact .inr ⟨_, rfl, fieldsOf_saltResponse _ _ id⟩
  | lookup id =>
    obtain rfl := Host.Outcome.next.inj h
    exact .inr ⟨_, rfl, fieldsOf_lookupResponse _ _ id⟩

/-! ### What a command writes (10_state.md section 3, 20_memory.md section 3) -/

theorem exec_keeps_crcAcc (hcrc : ¬ (2 ≤ opNumber i ∧ opNumber i ≤ 5)) (h : exec i s = .next t) : t.crcAcc = s.crcAcc := by
  cases i with
  | sendHb seq sysid compid =>
    rw [exec_sendHb] at h
    obtain ⟨-, hacc, -, -⟩ := deliver_frame h
    exact hacc
  | crcSeed | crcLoad v | crcByte b | crcSalt id => exact absurd (by simp [opNumber]) hcrc
  | reset | feed b | lookup id =>
    obtain rfl := Host.Outcome.next.inj h
    rfl

theorem exec_keeps_parser (h0 : opNumber i ≠ 0) (h1 : opNumber i ≠ 1) (h : exec i s = .next t) : t.parser = s.parser := by
  cases i with
  | sendHb seq sysid compid =>
    rw [exec_sendHb] at h
    obtain ⟨hparser, -, -, -⟩ := deliver_frame h
    exact hparser
  | reset => exact absurd rfl h0
  | feed b => exact absurd rfl h1
  | crcSeed | crcLoad v | crcByte b | crcSalt id | lookup id =>
    obtain rfl := Host.Outcome.next.inj h
    rfl

theorem exec_keeps_sink (h7 : opNumber i ≠ 7) (h : exec i s = .next t) : t.sinkBytes = s.sinkBytes
    ∧ t.sinkOffers = s.sinkOffers ∧ t.sinkAnswers = s.sinkAnswers ∧ t.sending = s.sending := by
  cases i with
  | sendHb seq sysid compid => exact absurd rfl h7
  | reset | feed b | crcSeed | crcLoad v | crcByte b | crcSalt id | lookup id =>
    obtain rfl := Host.Outcome.next.inj h
    exact ⟨rfl, rfl, rfl, rfl⟩

theorem exec_keeps_cmds (h : exec i s = .next t) : t.cmds = s.cmds := by
  cases i with
  | sendHb seq sysid compid =>
    rw [exec_sendHb] at h
    obtain ⟨-, -, -, hcmds⟩ := deliver_frame h
    exact hcmds
  | reset | feed b | crcSeed | crcLoad v | crcByte b | crcSalt id | lookup id =>
    obtain rfl := Host.Outcome.next.inj h
    rfl

theorem exec_extends_sinkBytes (h : exec i s = .next t) : s.sinkBytes <+: t.sinkBytes := by
  by_cases h7 : opNumber i = 7
  · obtain ⟨seq, sysid, compid, rfl⟩ := exists_sendHb_of_opNumber h7
    rw [exec_sendHb] at h
    obtain ⟨k, -, hbytes, -⟩ := deliver_outcome h
    exact hbytes ▸ List.prefix_append ..
  · obtain ⟨hbytes, -⟩ := exec_keeps_sink h7 h
    exact hbytes ▸ List.prefix_rfl

theorem exec_extends_responses (h : exec i s = .next t) : s.responses <+: t.responses := by
  obtain ⟨hresp, -⟩ | ⟨r, hresp, -⟩ := exec_response h
  · exact hresp ▸ List.prefix_rfl
  · exact hresp ▸ List.prefix_append ..

/-! ### The placement (20_memory.md R51) -/

/-- The state of a block that the platform has placed elsewhere. -/
def State.placedAt (s : State) (base : Option Nat) : State := { s with cfg := { s.cfg with dzBase := base } }

theorem exec_placedAt (base : Option Nat) (h : exec i s = .next t) : exec i (s.placedAt base) = .next (t.placedAt base) := by
  cases i with
  | sendHb seq sysid compid =>
    have hcfg := exec_keeps_cfg h
    rw [State.placedAt, State.placedAt, hcfg]
    exact deliver_withCfg _ h
  | reset | feed b | crcSeed | crcLoad v | crcByte b | crcSalt id | lookup id =>
    obtain rfl := Host.Outcome.next.inj h
    rfl

theorem step_placedAt (base : Option Nat) (h : step s = .next t) : step (s.placedAt base) = .next (t.placedAt base) := by
  obtain ⟨rest, hs, hdeliver⟩ | ⟨hs, hc, rfl⟩ | ⟨w, ws, i, hs, hc, hd, hexec⟩ | ⟨w, ws, e, hs, hc, hd, rfl⟩ := step_next h
  · obtain ⟨-, -, hcfg, -⟩ := deliver_frame hdeliver
    rw [step_of_sending (s := s.placedAt base) hs, State.placedAt, State.placedAt, hcfg]
    exact deliver_withCfg _ hdeliver
  · exact step_of_no_cmds hs hc
  · rw [step_of_decode_ok (s := s.placedAt base) hs hc hd]
    exact exec_placedAt base hexec
  · exact step_of_decode_error (s := s.placedAt base) hs hc hd

end Sys2Proof.Machine
end

section
/-! PROOFS. The statements about all commands together (10_state.md section 3, 20_memory.md section 1, 30_encoding.md R76,
60_exceptions.md section 1). -/

namespace Sys2Proof.Proofs

open Sys2Proof Sys2Proof.Machine

/-- Settles O55: `exec_response`, and the illegal word's bare response. -/
theorem responseFieldsByCommand : Obligations.ResponseFieldsByCommand := by
  unfold Obligations.ResponseFieldsByCommand
  refine ⟨rfl, rfl, rfl, fun st => ?code, fun s w ws e hs hc he => ⟨_, step_of_decode_error hs hc he, rfl⟩,
    fun i s t h => exec_response h⟩
  case code => cases st <;> decide

/-- Settles O56: what each command writes, one part of the state at a time. -/
theorem eachCommandWritesOnlyItsOwnState : Obligations.EachCommandWritesOnlyItsOwnState := by
  unfold Obligations.EachCommandWritesOnlyItsOwnState
  exact fun i s t h => ⟨fun hcrc => exec_keeps_crcAcc hcrc h, fun h0 h1 => exec_keeps_parser h0 h1 h,
    fun h7 => exec_keeps_sink h7 h, exec_keeps_cfg h, exec_keeps_cmds h, exec_extends_sinkBytes h, exec_extends_responses h⟩

/-- Settles O57: a delivery stops exactly on a lawless answer, and nothing else stops. -/
theorem onlyALawlessSinkStopsTheBlock : Obligations.OnlyALawlessSinkStopsTheBlock := by
  unfold Obligations.OnlyALawlessSinkStopsTheBlock
  refine ⟨step_ne_refused, fun i s h7 => exec_next_of_opNumber_ne h7 s, fun s seq sysid compid => ?sendHb,
    fun s rest hs => ?opened, fun s f hs h => sendHb_of_step_fault hs h⟩
  case sendHb =>
    rw [exec_sendHb, ← hbFrame_length s.cfg seq sysid compid]
    exact ⟨deliver_of_breaksTheLaw, deliver_of_lawful⟩
  case opened =>
    rw [step_of_sending hs]
    exact ⟨deliver_of_breaksTheLaw, deliver_of_lawful⟩

/-- Settles O58: no command and no delivery reads the placement. -/
theorem placementIsNeverRead : Obligations.PlacementIsNeverRead := by
  unfold Obligations.PlacementIsNeverRead
  exact fun s t base => step_placedAt base

end Sys2Proof.Proofs
end

section
/-! PROOFS. A parse step inside a frame and at its three ends (41_parser.md section 4), and what a step does to the two flags
(10_state.md section 2). -/

namespace Sys2Proof.Machine

variable {cfg : Config} {p : Parser} {b : Byte}

/-- At the end of a frame the parser resynchronizes (41_parser.md R129, R135, R136). -/
theorem parseStep_of_atFrameEnd (h : p.Inv cfg) (hend : p.AtFrameEnd cfg) :
    (parseStep cfg p b).1 = Parser.reset cfg.payloadCap := by
  obtain ⟨hp, hlast, hover⟩ | ⟨hp, hnt⟩ | ⟨hp, hcnt⟩ := hend
  · rw [parseStep_header hp, stepHeader_oversize h hlast hover]
  · rw [parseStep_checksumHigh hp, stepChecksumHigh_noTrailer hnt]
    rfl
  · rw [parseStep_signature hp, stepSignature_last (by rw [hcnt]; rfl)]
    rfl

theorem trailer_of_not_atFrameEnd (hp : p.phase = .checksumHigh) (hend : ¬ p.AtFrameEnd cfg) :
    p.v2 = true ∧ p.signed = true :=
  not_not.mp fun hnt => hend (.inr (.inl ⟨hp, hnt⟩))

theorem noTrailer_of_atFrameEnd (hp : p.phase = .checksumHigh) (hend : p.AtFrameEnd cfg) :
    ¬ (p.v2 = true ∧ p.signed = true) := by
  simpa [Parser.AtFrameEnd, hp] using hend

theorem sigCnt_of_not_atFrameEnd (hp : p.phase = .signature) (hend : ¬ p.AtFrameEnd cfg) : p.sigCnt + 1 ≠ 13 :=
  fun hlast => hend (.inr (.inr ⟨hp, by bv_omega⟩))

/-- A header byte that does not end the frame is stored; all else it can change is what header completion writes. -/
theorem stepHeader_inside (h : p.Inv cfg) (hp : p.phase = .header) (hend : ¬ p.AtFrameEnd cfg) :
    ∃ (payLen payIdx incompat : Byte) (signed : Bool) (phase : Phase),
      stepHeader cfg p b = { appendHeader p b with
        payLen := payLen, payIdx := payIdx, incompat := incompat, signed := signed, phase := phase }
      ∧ (phase = .header ∨ phase = .payload ∨ phase = .checksumLow)
      ∧ (signed = p.signed ∨ p.hdrIdx + 1 = p.hdrLen ∧ signed = (p.v2 && p.hdr[1].getLsbD 0)) := by
  by_cases hlast : p.hdrIdx + 1 = p.hdrLen
  case neg => exact ⟨_, _, _, _, _, stepHeader_within hlast, .inl hp, .inl rfl⟩
  case pos =>
    have hfits : p.hdr[0].toNat ≤ cfg.payloadCap.toNat := Nat.not_lt.mp fun hover => hend (.inl ⟨hp, hlast, hover⟩)
    refine ⟨_, _, _, _, _, stepHeader_fits h hlast hfits, ?_, .inr ⟨hlast, rfl⟩⟩
    split
    · exact .inr (.inr rfl)
    · exact .inr (.inl rfl)

/-- The flags after a step: v2 is selected at a sync byte, signed is read at the end of a header, and both are cleared where the
parser resynchronizes. -/
theorem parseStep_flags (h : p.Inv cfg) :
    (parseStep cfg p b).1 = Parser.reset cfg.payloadCap
      ∨ (p.phase = .waitSync ∧ (b = syncV2 ∧ (parseStep cfg p b).1.v2 = true ∨ b = syncV1 ∧ (parseStep cfg p b).1.v2 = false)
        ∧ (parseStep cfg p b).1.signed = p.signed)
      ∨ ((parseStep cfg p b).1.v2 = p.v2
        ∧ ((parseStep cfg p b).1.signed = p.signed ∨ p.phase = .header ∧ p.hdrIdx + 1 = p.hdrLen
          ∧ (parseStep cfg p b).1.signed = (p.v2 && p.hdr[1].getLsbD 0))) := by
  by_cases hend : p.AtFrameEnd cfg
  · exact .inl (parseStep_of_atFrameEnd h hend)
  right
  cases hp : p.phase with
  | waitSync =>
    rw [parseStep_waitSync hp, stepWaitSync]
    split
    · exact .inl ⟨rfl, .inl ⟨‹_›, rfl⟩, rfl⟩
    · split
      · exact .inl ⟨rfl, .inr ⟨‹_›, rfl⟩, rfl⟩
      · exact .inr ⟨rfl, .inl rfl⟩
  | header =>
    right
    obtain ⟨_, _, _, signed, _, hstep, -, hsigned⟩ := stepHeader_inside (b := b) h hp hend
    rw [parseStep_header hp, hstep]
    obtain hsame | ⟨hlast, hread⟩ := hsigned
    · exact ⟨rfl, .inl hsame⟩
    · exact ⟨rfl, .inr ⟨rfl, hlast, hread⟩⟩
  | payload =>
    rw [parseStep_payload hp, stepPayload_eq hp]
    exact .inr ⟨rfl, .inl rfl⟩
  | checksumLow =>
    rw [parseStep_checksumLow hp]
    exact .inr ⟨rfl, .inl rfl⟩
  | checksumHigh =>
    rw [parseStep_checksumHigh hp, stepChecksumHigh_trailer (trailer_of_not_atFrameEnd hp hend)]
    exact .inr ⟨rfl, .inl rfl⟩
  | signature =>
    rw [parseStep_signature hp, stepSignature_within (sigCnt_of_not_atFrameEnd hp hend)]
    exact .inr ⟨rfl, .inl rfl⟩

end Sys2Proof.Machine
end

section
/-! PROOFS. The statements about bytes inside a frame and about the flags (41_parser.md section 4, 10_state.md section 2). -/

namespace Sys2Proof.Proofs

open Sys2Proof Sys2Proof.Machine

/-- Settles O36: `parseStep_flags` for FEED, the reset values for RESET, and no other command writes the parser. -/
theorem flagsAreWrittenOnlyByTheirRules : Obligations.FlagsAreWrittenOnlyByTheirRules := by
  unfold Obligations.FlagsAreWrittenOnlyByTheirRules
  intro i s t hinv h
  cases i with
  | reset =>
    obtain rfl := Host.Outcome.next.inj h
    exact ⟨fun _ => .inl rfl, fun _ => .inl rfl, fun _ hr => absurd rfl hr⟩
  | feed b =>
    obtain rfl := Host.Outcome.next.inj h
    obtain hreset | ⟨hw, hsync, hsigned⟩ | ⟨hv2, hsigned⟩ := parseStep_flags (b := b) hinv
    · exact ⟨fun _ => .inl hreset, fun _ => .inl hreset, fun hf => absurd rfl (hf b)⟩
    · refine ⟨fun _ => .inr ⟨hw, ?_⟩, fun hne => absurd hsigned hne, fun hf => absurd rfl (hf b)⟩
      obtain ⟨rfl, hv2⟩ | ⟨rfl, hv2⟩ := hsync
      · exact .inl ⟨rfl, hv2⟩
      · exact .inr ⟨rfl, hv2⟩
    · refine ⟨fun hne => absurd hv2 hne, fun hne => .inr ?_, fun hf => absurd rfl (hf b)⟩
      obtain hsame | ⟨hp, hlast, hread⟩ := hsigned
      · exact absurd hsame hne
      · exact ⟨hp, hlast, ⟨b, rfl⟩, hread⟩
  | crcSeed | crcLoad v | crcByte b | crcSalt id | lookup id | sendHb seq sysid compid =>
    have hparser : t.parser = s.parser := exec_keeps_parser (by simp [opNumber]) (by simp [opNumber]) h
    rw [hparser]
    exact ⟨fun hne => absurd rfl hne, fun hne => absurd rfl hne, fun _ _ => ⟨rfl, rfl⟩⟩

/-- Settles O35: by the phase, with the end of the frame apart. -/
theorem syncBytesInsideAFrameAreData : Obligations.SyncBytesInsideAFrameAreData := by
  unfold Obligations.SyncBytesInsideAFrameAreData
  intro s b hinv hw
  refine ⟨_, exec_feed b s, fun hend => parseStep_of_atFrameEnd hinv hend, fun hp hend => ?unsigned, fun hend => ?inside⟩
  case unsigned =>
    obtain ⟨-, hzero⟩ := hinv.in_checksumHigh hp
    refine ⟨(withChecksumHigh s.parser b).rxCk, withChecksumHigh_low, withChecksumHigh_high hzero, ?_⟩
    rw [feedNext_responses, parseStep_checksumHigh hp, stepChecksumHigh_noTrailer (noTrailer_of_atFrameEnd hp hend)]
    rfl
  case inside =>
    rw [feedNext_parser, feedNext_responses]
    cases hp : s.parser.phase with
    | waitSync => exact absurd hp hw
    | header =>
      obtain ⟨_, _, _, _, _, hstep, hphase, -⟩ := stepHeader_inside (b := b) hinv hp hend
      rw [parseStep_header hp, hstep]
      exact ⟨rfl, rfl, rfl, fun hne => absurd rfl hne, fun _ => rfl, appendHeader_at_cursor (hinv.hdrIdx_lt_nine hp), rfl,
        fun i hi => appendHeader_elsewhere i.val i.isLt hi, hphase⟩
    | payload =>
      have hin : s.parser.payIdx.toNat < s.parser.pay.length := hinv.pay_length ▸ hinv.payIdx_lt_payloadCap hp
      rw [parseStep_payload hp, stepPayload_eq hp]
      refine ⟨rfl, rfl, rfl, fun _ => ⟨rfl, rfl, rfl, rfl, rfl⟩, fun hne => absurd rfl hne, appendPayload_at_cursor hin, rfl,
        fun i hi => appendPayload_elsewhere hi, ?_⟩
      split
      · exact .inr rfl
      · exact .inl rfl
    | checksumLow =>
      rw [parseStep_checksumLow hp]
      exact ⟨rfl, rfl, rfl, fun _ => ⟨rfl, rfl, rfl, rfl, rfl⟩, fun _ => rfl, setWidth_low b, rfl⟩
    | checksumHigh =>
      obtain ⟨-, hzero⟩ := hinv.in_checksumHigh hp
      rw [parseStep_checksumHigh hp, stepChecksumHigh_trailer (trailer_of_not_atFrameEnd hp hend)]
      exact ⟨rfl, rfl, rfl, fun _ => ⟨rfl, rfl, rfl, rfl, rfl⟩, fun _ => rfl, withChecksumHigh_low,
        withChecksumHigh_high hzero, rfl⟩
    | signature =>
      rw [parseStep_signature hp, stepSignature_within (sigCnt_of_not_atFrameEnd hp hend)]
      exact ⟨rfl, rfl, rfl, fun _ => ⟨rfl, rfl, rfl, rfl, rfl⟩, fun _ => rfl, rfl⟩

end Sys2Proof.Proofs
end

section
/-! PROOFS. Runs of FEED: the parser's run over a sequence of bytes, and the reader that feeds up to the first message of its target
(41_parser.md section 4, 60_exceptions.md R242, R243). -/

namespace Sys2Proof.Machine

/-- Parse steps over a sequence of bytes: the parser they leave, and their messages in order (41_parser.md R124). -/
def parseAll (cfg : Config) : Parser → List Byte → Parser × List (Option Message)
  | p, [] => (p, [])
  | p, b :: bs => ((parseAll cfg (parseStep cfg p b).1 bs).1, (parseStep cfg p b).2 :: (parseAll cfg (parseStep cfg p b).1 bs).2)

theorem parseAll_messages_length (cfg : Config) (bs : List Byte) (p : Parser) : (parseAll cfg p bs).2.length = bs.length := by
  induction bs generalizing p with
  | nil => rfl
  | cons b bs ih => simp [parseAll, ih]

theorem parseAll_append (cfg : Config) (xs ys : List Byte) (p : Parser) : parseAll cfg p (xs ++ ys) =
    ((parseAll cfg (parseAll cfg p xs).1 ys).1, (parseAll cfg p xs).2 ++ (parseAll cfg (parseAll cfg p xs).1 ys).2) := by
  induction xs generalizing p with
  | nil => rfl
  | cons x xs ih => simp [parseAll, ih]

/-- The state after a sequence of bytes has been fed: each byte parsed and answered in turn. -/
def feedAll (bs : List Byte) (s : State) : State :=
  { s with parser := (parseAll s.cfg s.parser bs).1, responses := s.responses ++ (parseAll s.cfg s.parser bs).2.map feedResponse }

theorem feedAll_nil (s : State) : feedAll [] s = s := by simp [feedAll, parseAll]

theorem feedAll_cons (b : Byte) (bs : List Byte) (s : State) : feedAll (b :: bs) s = feedAll bs (feedNext b s) := by
  simp [feedAll, parseAll, feedNext, State.withParser, State.respond, feedResponse, msgResponse, bareResponse]

theorem feedAll_append (xs ys : List Byte) (s : State) : feedAll (xs ++ ys) s = feedAll ys (feedAll xs s) := by
  induction xs generalizing s with
  | nil => rw [List.nil_append, feedAll_nil]
  | cons x xs ih => rw [List.cons_append, feedAll_cons, feedAll_cons, ih]

theorem runCommands_feeds (bs : List Byte) (s : State) : runCommands (bs.map .feed) s = .next (feedAll bs s) := by
  induction bs generalizing s with
  | nil => rw [feedAll_nil]; rfl
  | cons b bs ih => rw [List.map_cons, runCommands_cons_of_next _ (exec_feed b s), ih, feedAll_cons]

/-! ### The reader (60_exceptions.md R242, R243) -/

section Reader

variable {target : MsgId} {s t : State} {b : Byte} {m : Message}

theorem feedBuffer_found (bs : List Byte) (hm : (parseStep s.cfg s.parser b).2 = some m) (ht : m.msgid = target) :
    feedBuffer target (b :: bs) s = (some m, feedNext b s) := by
  simp only [feedBuffer, hm, if_pos ht]

theorem feedBuffer_other (bs : List Byte) (h : ∀ m, (parseStep s.cfg s.parser b).2 = some m → m.msgid ≠ target) :
    feedBuffer target (b :: bs) s = feedBuffer target bs (feedNext b s) := by
  cases hm : (parseStep s.cfg s.parser b).2 with
  | none => simp only [feedBuffer, hm]
  | some m => simp only [feedBuffer, hm, if_neg (h m hm)]

/-- No message of the target among those of the bytes fed. -/
def WithoutTarget (target : MsgId) (bs : List Byte) (s : State) : Prop :=
  ∀ m, some m ∈ (parseAll s.cfg s.parser bs).2 → m.msgid ≠ target

theorem withoutTarget_cons (bs : List Byte) : WithoutTarget target (b :: bs) s ↔
    (∀ m, (parseStep s.cfg s.parser b).2 = some m → m.msgid ≠ target) ∧ WithoutTarget target bs (feedNext b s) := by
  simp only [WithoutTarget, parseAll, List.mem_cons, or_imp, forall_and, eq_comm (a := some _)]
  rfl

theorem withoutTarget_append (xs ys : List Byte) : WithoutTarget target (xs ++ ys) s ↔
    WithoutTarget target xs s ∧ WithoutTarget target ys (feedAll xs s) := by
  simp only [WithoutTarget, parseAll_append, List.mem_append, or_imp, forall_and]
  rfl

theorem withoutTarget_responses {bs : List Byte} (h : WithoutTarget target bs s) :
    ∀ r ∈ (parseAll s.cfg s.parser bs).2.map feedResponse, ∀ m, r.msg = some m → m.msgid ≠ target := by
  intro r hr m hm
  obtain ⟨msg, hmsg, rfl⟩ := List.mem_map.mp hr
  exact h m (hm ▸ hmsg)

/-- Bytes without a message of the target are all fed. -/
theorem feedBuffer_append {xs : List Byte} (ys : List Byte) (h : WithoutTarget target xs s) :
    feedBuffer target (xs ++ ys) s = feedBuffer target ys (feedAll xs s) := by
  induction xs generalizing s with
  | nil => rw [List.nil_append, feedAll_nil]
  | cons x xs ih =>
    obtain ⟨hx, hxs⟩ := (withoutTarget_cons xs).mp h
    rw [List.cons_append, feedBuffer_other _ hx, ih hxs, feedAll_cons]

theorem feedBuffer_of_withoutTarget {bs : List Byte} (h : WithoutTarget target bs s) :
    feedBuffer target bs s = (none, feedAll bs s) := by
  have hrun := feedBuffer_append [] h
  rwa [List.append_nil] at hrun

/-- The byte b, fed after these bytes, completes the first message of the target. -/
structure CompletesFirst (target : MsgId) (before : List Byte) (b : Byte) (m : Message) (s : State) : Prop where
  before_without : WithoutTarget target before s
  message : (parseStep (feedAll before s).cfg (feedAll before s).parser b).2 = some m
  isTarget : m.msgid = target

/-- The reader returns at the byte that completes the first message of its target, whatever comes after it (D34). -/
theorem CompletesFirst.feedBuffer_eq {before : List Byte} (h : CompletesFirst target before b m s) (more : List Byte) :
    feedBuffer target (before ++ b :: more) s = (some m, feedNext b (feedAll before s)) := by
  rw [feedBuffer_append _ h.before_without, feedBuffer_found more h.message h.isTarget]

/-- Feeding the first bytes beforehand leaves the same byte to complete the message. -/
theorem CompletesFirst.after_first {xs ys : List Byte} (h : CompletesFirst target (xs ++ ys) b m s) :
    WithoutTarget target xs s ∧ CompletesFirst target ys b m (feedAll xs s) := by
  obtain ⟨hxs, hys⟩ := (withoutTarget_append xs ys).mp h.before_without
  exact ⟨hxs, hys, by rw [← feedAll_append]; exact h.message, h.isTarget⟩

/-- A buffer has no message of the target, or one of its bytes completes the first. -/
theorem withoutTarget_or_completesFirst (target : MsgId) (bs : List Byte) (s : State) : WithoutTarget target bs s
    ∨ ∃ before b lost m, bs = before ++ b :: lost ∧ CompletesFirst target before b m s := by
  induction bs generalizing s with
  | nil => exact .inl nofun
  | cons b bs ih =>
    by_cases hb : ∀ m, (parseStep s.cfg s.parser b).2 = some m → m.msgid ≠ target
    case neg =>
      simp only [not_forall, not_not] at hb
      obtain ⟨m, hm, ht⟩ := hb
      exact .inr ⟨[], b, bs, m, rfl, nofun, by rwa [feedAll_nil], ht⟩
    case pos =>
      obtain hbs | ⟨before, c, lost, m, rfl, hfirst⟩ := ih (feedNext b s)
      · exact .inl ((withoutTarget_cons bs).mpr ⟨hb, hbs⟩)
      · refine .inr ⟨b :: before, c, lost, m, rfl, (withoutTarget_cons before).mpr ⟨hb, hfirst.before_without⟩, ?_,
          hfirst.isTarget⟩
        rw [feedAll_cons]
        exact hfirst.message

end Reader

end Sys2Proof.Machine
end

section
/-! PROOFS. The statements about sequences of FEED and about the reader (41_parser.md section 4, 60_exceptions.md section 4). -/

namespace Sys2Proof.Proofs

open Sys2Proof Sys2Proof.Machine

/-- Settles O22: each FEED goes on, with one answer. -/
theorem feedsNeverReportAnError : Obligations.FeedsNeverReportAnError := by
  unfold Obligations.FeedsNeverReportAnError
  exact fun bs s => ⟨_, _, runCommands_feeds bs s, parseAll_messages_length s.cfg bs s.parser, rfl⟩

/-- Settles O59: a buffer is fed up to the byte that completes the first message of the target, or has none and is fed whole. -/
theorem readerStopsAtTheTargetMessage : Obligations.ReaderStopsAtTheTargetMessage := by
  unfold Obligations.ReaderStopsAtTheTargetMessage
  refine ⟨fun target bs s t m h => ?found, fun target bs s t h => ?whole⟩
  case found =>
    obtain hwithout | ⟨before, b, lost, m', rfl, hfirst⟩ := withoutTarget_or_completesFirst target bs s
    · rw [feedBuffer_of_withoutTarget hwithout] at h
      cases h
    · rw [hfirst.feedBuffer_eq lost] at h
      obtain ⟨hm, rfl⟩ := Prod.mk.inj h
      obtain rfl := Option.some.inj hm
      refine ⟨hfirst.isTarget, before ++ [b], lost, (parseAll s.cfg s.parser before).2.map feedResponse, by simp, by simp,
        ?run, ?responses, ?length, withoutTarget_responses hfirst.before_without, fun more => ?after, ?split⟩
      case run => rw [runCommands_feeds, feedAll_append, feedAll_cons, feedAll_nil]
      case responses =>
        rw [feedNext_responses, hfirst.message]
        rfl
      case length => simp [parseAll_messages_length]
      case after =>
        rw [List.append_assoc]
        exact hfirst.feedBuffer_eq more
      case split =>
        intro xs ys hfed hne
        obtain ⟨zs, c, rfl⟩ := (List.eq_nil_or_concat ys).resolve_left hne
        rw [List.concat_eq_append, ← List.append_assoc] at hfed
        obtain ⟨rfl, hc⟩ := List.append_inj' hfed rfl
        obtain rfl := List.singleton_inj.mp hc
        obtain ⟨hxs, hrest⟩ := hfirst.after_first
        refine ⟨feedAll xs s, feedBuffer_of_withoutTarget hxs, fun more => ?_⟩
        rw [List.concat_eq_append, List.append_assoc, List.singleton_append, hrest.feedBuffer_eq more, feedAll_append]
  case whole =>
    obtain hwithout | ⟨before, b, lost, m, rfl, hfirst⟩ := withoutTarget_or_completesFirst target bs s
    · rw [feedBuffer_of_withoutTarget hwithout] at h
      obtain ⟨-, rfl⟩ := Prod.mk.inj h
      exact ⟨runCommands_feeds bs s, (parseAll s.cfg s.parser bs).2.map feedResponse, rfl, by simp [parseAll_messages_length],
        withoutTarget_responses hwithout⟩
    · rw [hfirst.feedBuffer_eq lost] at h
      cases h

end Sys2Proof.Proofs
end

section
/-! PROOFS. How far a parser is in a frame, as the bytes it holds of it: a description that forgets every field which the phase does
not read (10_state.md section 4), its own step, and that a parser which fits the description takes the same step (41_parser.md
R124). -/

namespace Sys2Proof.Machine

/-! ### The frame held (30_encoding.md R80, R81) -/

/-- A frame up to its checksum: its version, its header bytes after the sync byte, and its payload bytes so far. -/
structure HeldFrame where
  v2 : Bool
  header : List Byte
  payload : List Byte

/-- The number of header bytes of a version (00_scope.md R5). -/
def headerLength (v2 : Bool) : Nat := if v2 then 9 else 5

namespace HeldFrame

/-- The declared length (10_state.md R27). -/
def len (f : HeldFrame) : Byte := f.header.getD 0 0

/-- Whether a signature trailer is declared (41_parser.md R130). -/
def signed (f : HeldFrame) : Bool := f.v2 && (f.header.getD 1 0).getLsbD 0

def sysid (f : HeldFrame) : Byte := if f.v2 then f.header.getD 4 0 else f.header.getD 2 0

def compid (f : HeldFrame) : Byte := if f.v2 then f.header.getD 5 0 else f.header.getD 3 0

def msgid (f : HeldFrame) : MsgId :=
  if f.v2 then f.header.getD 8 0 ++ (f.header.getD 7 0 ++ f.header.getD 6 0) else (f.header.getD 4 0).setWidth 24

def message (f : HeldFrame) : Message := ⟨f.msgid, f.sysid, f.compid, f.len, f.payload⟩

/-- The answer to the frame with this checksum field (41_parser.md R138, 30_encoding.md R86). -/
def verdict (cfg : Config) (f : HeldFrame) (ck : Checksum) : Option Message :=
  if coverageChecksum cfg f.msgid (f.header ++ f.payload) = some ck then some f.message else none

def push (f : HeldFrame) (b : Byte) : HeldFrame := { f with payload := f.payload ++ [b] }

end HeldFrame

/-! ### The progress of a parse -/

/-- Where in a frame a parser is, and what it holds of it. -/
inductive Progress where
  | idle
  | header (v2 : Bool) (hs : List Byte)
  | payload (f : HeldFrame)
  | checksumLow (f : HeldFrame)
  | checksumHigh (f : HeldFrame) (lo : Byte)
  | signature (f : HeldFrame) (ck : Checksum) (n : BitVec 4)

namespace Progress

/-- The phase of 10_state.md R24. -/
def phase : Progress → Phase
  | .idle => .waitSync
  | .header _ _ => .header
  | .payload _ => .payload
  | .checksumLow _ => .checksumLow
  | .checksumHigh _ _ => .checksumHigh
  | .signature _ _ _ => .signature

/-- After so many payload bytes: more of them, or the checksum (41_parser.md R131, R133). -/
def afterPayload (f : HeldFrame) : Progress := if f.payload.length < f.len.toNat then .payload f else .checksumLow f

/-- After so many header bytes: more of them, or the length check and what follows (41_parser.md R128 to R131). -/
def afterHeader (cfg : Config) (v2 : Bool) (hs : List Byte) : Progress :=
  if hs.length < headerLength v2 then .header v2 hs
  else if cfg.payloadCap.toNat < (hs.getD 0 0).toNat then .idle
  else afterPayload ⟨v2, hs, []⟩

/-- One byte more (41_parser.md R125 to R136). -/
def next (cfg : Config) : Progress → Byte → Progress × Option Message
  | .idle, b => (if b = 0xFD then .header true [] else if b = 0xFE then .header false [] else .idle, none)
  | .header v2 hs, b => (afterHeader cfg v2 (hs ++ [b]), none)
  | .payload f, b => (afterPayload (f.push b), none)
  | .checksumLow f, b => (.checksumHigh f b, none)
  | .checksumHigh f lo, b => if f.signed then (.signature f (b ++ lo) 0, none) else (.idle, f.verdict cfg (b ++ lo))
  | .signature f ck n, _ => if n + 1 = 13 then (.idle, f.verdict cfg ck) else (.signature f ck (n + 1), none)

/-- A sequence of bytes more: the progress after them, and their messages in order. -/
def run (cfg : Config) : Progress → List Byte → Progress × List (Option Message)
  | v, [] => (v, [])
  | v, b :: bs => ((run cfg (v.next cfg b).1 bs).1, (v.next cfg b).2 :: (run cfg (v.next cfg b).1 bs).2)

end Progress

/-! ### The parsers that fit a progress -/

namespace Parser

/-- The parser holds these bytes of a header that is not complete. -/
structure HoldsHeader (p : Parser) (v2 : Bool) (hs : List Byte) : Prop where
  version : p.v2 = v2
  hdrLen : p.hdrLen.toNat = headerLength v2
  hdrIdx : p.hdrIdx.toNat = hs.length
  within : hs.length < headerLength v2
  bytes : p.hdr.toList.take hs.length = hs

/-- The parser holds the whole header of f and its payload so far. -/
structure Holds (cfg : Config) (p : Parser) (f : HeldFrame) : Prop where
  pay_length : p.pay.length = cfg.payloadCap.toNat
  version : p.v2 = f.v2
  hdrLen : p.hdrLen.toNat = headerLength f.v2
  header : p.hdr.toList.take (headerLength f.v2) = f.header
  payLen : p.payLen = f.len
  fits : f.len.toNat ≤ cfg.payloadCap.toNat
  signed : p.signed = f.signed
  payIdx : p.payIdx.toNat = f.payload.length
  payload : p.pay.take f.payload.length = f.payload

/-- The parser holds f with as many payload bytes as it declares. -/
structure HoldsWhole (cfg : Config) (p : Parser) (f : HeldFrame) : Prop extends Holds cfg p f where
  whole : f.payload.length = f.len.toNat

/-- The parser is as far as v says, whatever its other fields hold. -/
def Shows (cfg : Config) (p : Parser) (v : Progress) : Prop :=
  p.phase = v.phase ∧ match v with
    | .idle => p.pay.length = cfg.payloadCap.toNat
    | .header v2 hs => p.pay.length = cfg.payloadCap.toNat ∧ p.HoldsHeader v2 hs
    | .payload f => p.Holds cfg f ∧ f.payload.length < f.len.toNat
    | .checksumLow f => p.HoldsWhole cfg f
    | .checksumHigh f lo => p.HoldsWhole cfg f ∧ p.rxCk = lo.setWidth 16
    | .signature f ck n => p.HoldsWhole cfg f ∧ p.rxCk = ck ∧ p.sigCnt = n

end Parser

section Simulation

variable {cfg : Config} {p : Parser} {b : Byte} {v2 : Bool} {hs : List Byte} {f : HeldFrame}

theorem take_set_self {l : List Byte} {n : Nat} (h : n < l.length) : (l.set n b).take (n + 1) = l.take n ++ [b] := by
  rw [List.take_succ_eq_append_getElem (by simpa), List.getElem_set_self, List.take_set_of_le le_rfl]

theorem headerLength_le (v2 : Bool) : headerLength v2 ≤ 9 := by
  cases v2 <;> decide

theorem lt_headerLength {i : Nat} (h : i < 5) (v2 : Bool) : i < headerLength v2 :=
  Nat.lt_of_lt_of_le h (by cases v2 <;> decide)

/-- A header byte of the buffer is that byte of the list held. -/
theorem hdr_getElem_eq_getD {n i : Nat} (h : p.hdr.toList.take n = hs) (hi : i < n) (h9 : i < 9) :
    p.hdr[i] = hs.getD i 0 := by
  subst h
  simp [hi, h9]

/-! ### The header -/

theorem appendHeader_take (h : p.HoldsHeader v2 hs) :
    (appendHeader p b).hdr.toList.take (hs ++ [b]).length = hs ++ [b] := by
  have hin : hs.length < p.hdr.toList.length := by
    rw [Vector.length_toList]
    exact Nat.lt_of_lt_of_le h.within (headerLength_le v2)
  rw [List.length_append, List.length_singleton, appendHeader, Vector.toList_setIfInBounds, h.hdrIdx, take_set_self hin, h.bytes]

theorem appendHeader_hdrIdx (h : p.HoldsHeader v2 hs) : (appendHeader p b).hdrIdx.toNat = (hs ++ [b]).length := by
  have hidx := h.hdrIdx
  have hwithin := h.within
  have hle := headerLength_le v2
  rw [List.length_append, List.length_singleton, appendHeader]
  simp only [BitVec.toNat_add, hidx, BitVec.ofNat_eq_ofNat, BitVec.toNat_ofNat]
  omega

theorem appendHeader_holds (h : p.HoldsHeader v2 hs) (hmore : (hs ++ [b]).length < headerLength v2) :
    (appendHeader p b).HoldsHeader v2 (hs ++ [b]) :=
  ⟨h.version, h.hdrLen, appendHeader_hdrIdx h, hmore, appendHeader_take h⟩

theorem Parser.HoldsHeader.last_iff (h : p.HoldsHeader v2 hs) (b : Byte) :
    p.hdrIdx + 1 = p.hdrLen ↔ (hs ++ [b]).length = headerLength v2 := by
  rw [← appendHeader_hdrIdx (b := b) h, ← h.hdrLen]
  exact BitVec.toNat_inj.symm

theorem Parser.HoldsHeader.more_of_not_full (h : p.HoldsHeader v2 hs) (hfull : (hs ++ [b]).length ≠ headerLength v2) :
    (hs ++ [b]).length < headerLength v2 := by
  have hwithin := h.within
  rw [List.length_append, List.length_singleton] at hfull ⊢
  omega

theorem lenField_eq_getD (h : p.hdr.toList.take (headerLength v2) = hs) : lenField p = hs.getD 0 0 :=
  hdr_getElem_eq_getD h (lt_headerLength (by decide) v2) (by decide)

/-- The header, complete and within the capacity, with no payload yet. -/
theorem holds_of_header (hpay : p.pay.length = cfg.payloadCap.toNat) (hv : p.v2 = v2)
    (hlen : p.hdrLen.toNat = headerLength v2) (hbytes : p.hdr.toList.take (headerLength v2) = hs)
    (hfits : ¬ cfg.payloadCap < lenField p) (phase : Phase) :
    Parser.Holds cfg { readSignedFlag { p with payLen := lenField p } with payIdx := 0, phase := phase } ⟨v2, hs, []⟩ := by
  have hlenField : lenField p = (HeldFrame.mk v2 hs []).len := lenField_eq_getD hbytes
  have hincompat : incompatField p = hs.getD 1 0 :=
    hdr_getElem_eq_getD hbytes (lt_headerLength (by decide) v2) (by decide)
  have hsigned : (p.v2 && (incompatField p).getLsbD 0) = (HeldFrame.mk v2 hs []).signed := by
    rw [hv, hincompat]
    rfl
  rw [readSignedFlag_eq]
  exact ⟨hpay, hv, hlen, hbytes, hlenField, hlenField ▸ Nat.not_lt.mp hfits, hsigned, rfl, rfl⟩

theorem completeHeader_shows (hpay : p.pay.length = cfg.payloadCap.toNat) (hv : p.v2 = v2)
    (hlen : p.hdrLen.toNat = headerLength v2) (hfull : hs.length = headerLength v2)
    (hbytes : p.hdr.toList.take (headerLength v2) = hs) : (completeHeader cfg p).Shows cfg (.afterHeader cfg v2 hs) := by
  rw [Progress.afterHeader, if_neg hfull.not_lt, ← lenField_eq_getD hbytes]
  by_cases hover : cfg.payloadCap.toNat < (lenField p).toNat
  · rw [completeHeader_oversize hover, if_pos hover]
    exact ⟨rfl, List.length_replicate⟩
  · have hholds := holds_of_header hpay hv hlen hbytes hover
    have hlenField : (HeldFrame.mk v2 hs []).len = lenField p := (lenField_eq_getD hbytes).symm
    rw [completeHeader_fits hover, if_neg hover, Progress.afterPayload, hlenField]
    by_cases hzero : lenField p = 0
    · have hwhole : (HeldFrame.mk v2 hs []).payload.length = (HeldFrame.mk v2 hs []).len.toNat := by
        rw [hlenField, hzero]
        rfl
      rw [if_pos hzero, if_neg (hlenField ▸ hwhole.not_lt)]
      exact ⟨rfl, hholds _, hwhole⟩
    · have hpos : (HeldFrame.mk v2 hs []).payload.length < (lenField p).toNat := byte_pos_iff.mpr hzero
      rw [if_neg hzero, if_pos hpos]
      exact ⟨rfl, hholds _, hlenField ▸ hpos⟩

theorem stepHeader_shows (hp : p.phase = .header) (hpay : p.pay.length = cfg.payloadCap.toNat) (h : p.HoldsHeader v2 hs) :
    (stepHeader cfg p b).Shows cfg (.afterHeader cfg v2 (hs ++ [b])) := by
  by_cases hfull : (hs ++ [b]).length = headerLength v2
  · rw [stepHeader_last ((h.last_iff b).mpr hfull)]
    exact completeHeader_shows hpay h.version h.hdrLen hfull (hfull ▸ appendHeader_take h)
  · have hmore := h.more_of_not_full hfull
    rw [stepHeader_within (mt (h.last_iff b).mp hfull), Progress.afterHeader, if_pos hmore]
    exact ⟨hp, hpay, appendHeader_holds h hmore⟩

/-! ### The payload -/

theorem stepPayload_shows (hp : p.phase = .payload) (h : p.Holds cfg f) (hmore : f.payload.length < f.len.toNat) :
    (stepPayload p b).Shows cfg (.afterPayload (f.push b)) := by
  have hlength : (f.push b).payload.length = f.payload.length + 1 := by simp [HeldFrame.push]
  have hin : f.payload.length < p.pay.length := by
    rw [h.pay_length]
    exact Nat.lt_of_lt_of_le hmore h.fits
  have hidx : (p.payIdx + 1).toNat = (f.push b).payload.length := by
    have hidx := h.payIdx
    have hlt := f.len.isLt
    rw [hlength]
    simp only [BitVec.toNat_add, hidx, BitVec.ofNat_eq_ofNat, BitVec.toNat_ofNat]
    omega
  have hbytes : (appendPayload p b).pay.take (f.push b).payload.length = (f.push b).payload := by
    rw [hlength, appendPayload, h.payIdx, take_set_self hin, h.payload]
    rfl
  have hholds : ∀ phase, Parser.Holds cfg
      { p with pay := (appendPayload p b).pay, payIdx := p.payIdx + 1, phase := phase } (f.push b) := fun phase =>
    ⟨appendPayload_length.trans h.pay_length, h.version, h.hdrLen, h.header, h.payLen, h.fits, h.signed, hidx, hbytes⟩
  have hlast : p.payIdx + 1 = p.payLen ↔ (f.push b).payload.length = (f.push b).len.toNat := by
    rw [← hidx, h.payLen]
    exact BitVec.toNat_inj.symm
  rw [stepPayload_eq hp, Progress.afterPayload]
  by_cases hfull : (f.push b).payload.length = (f.push b).len.toNat
  · rw [if_pos (hlast.mpr hfull), if_neg hfull.not_lt]
    exact ⟨rfl, hholds _, hfull⟩
  · have hmore' : (f.push b).payload.length < (f.push b).len.toNat := by
      have hle : (f.push b).payload.length ≤ (f.push b).len.toNat := hlength ▸ hmore
      omega
    rw [if_neg (mt hlast.mp hfull), if_pos hmore']
    exact ⟨rfl, hholds _, hmore'⟩

/-! ### The checksum and the trailer -/

theorem or_shiftLeft_eq_append (hi lo : Byte) : lo.setWidth 16 ||| hi.setWidth 16 <<< 8 = (hi ++ lo : Checksum) := by
  have hhi := hi.isLt
  have hlo := lo.isLt
  apply BitVec.eq_of_toNat_eq
  show _ = (hi ++ lo).toNat
  rw [BitVec.toNat_append, BitVec.toNat_or, BitVec.toNat_shiftLeft, BitVec.toNat_setWidth_of_le (by decide),
    BitVec.toNat_setWidth_of_le (by decide), Nat.lor_comm, Nat.mod_eq_of_lt]
  rw [Nat.shiftLeft_eq]
  omega

/-- The frame held is in none of the fields that the bytes after it write. -/
theorem Parser.HoldsWhole.update (h : p.HoldsWhole cfg f) (phase : Phase) (rxCk : Checksum) (sigCnt : BitVec 4) :
    Parser.HoldsWhole cfg { p with phase := phase, rxCk := rxCk, sigCnt := sigCnt } f :=
  ⟨⟨h.pay_length, h.version, h.hdrLen, h.header, h.payLen, h.fits, h.signed, h.payIdx, h.payload⟩, h.whole⟩

theorem Parser.HoldsWhole.payloadBytes_eq (h : p.HoldsWhole cfg f) : payloadBytes p = f.payload := by
  rw [payloadBytes, h.payLen, ← h.whole, h.payload]

theorem Parser.Holds.headerBytes_eq (h : p.Holds cfg f) : headerBytes p = f.header := by
  rw [headerBytes, h.hdrLen, h.header]

/-- The fields of the header, by the version's offsets (10_state.md R27). -/
theorem Parser.Holds.fields_eq (h : p.Holds cfg f) :
    msgidField p = f.msgid ∧ sysidField p = f.sysid ∧ compidField p = f.compid := by
  have hget : ∀ i, (hi : i < headerLength f.v2) → p.hdr[i]'(Nat.lt_of_lt_of_le hi (headerLength_le f.v2)) = f.header.getD i 0 :=
    fun i hi => hdr_getElem_eq_getD h.header hi _
  rw [msgidField, sysidField, compidField, HeldFrame.msgid, HeldFrame.sysid, HeldFrame.compid, h.version]
  cases hv : f.v2 <;> rw [hv] at hget
  · exact ⟨congrArg (BitVec.setWidth 24) (hget 4 (by decide)), hget 2 (by decide), hget 3 (by decide)⟩
  · have h6 := hget 6 (by decide)
    have h7 := hget 7 (by decide)
    have h8 := hget 8 (by decide)
    simp only [if_true, h6, h7, h8]
    exact ⟨trivial, hget 4 (by decide), hget 5 (by decide)⟩

theorem Parser.HoldsWhole.frameMessage_eq (h : p.HoldsWhole cfg f) : frameMessage p = f.message := by
  obtain ⟨hmsgid, hsysid, hcompid⟩ := h.fields_eq
  rw [frameMessage, hmsgid, hsysid, hcompid, h.payLen, h.payloadBytes_eq, HeldFrame.message]

/-- Finalization's verdict is that of the frame held, in the terms of 30_encoding.md R86. -/
theorem finalize_of_holdsWhole (h : p.HoldsWhole cfg f) : (finalize cfg p).2 = f.verdict cfg p.rxCk := by
  obtain ⟨hmsgid, -, -⟩ := h.fields_eq
  have haccepted : frameAccepted cfg p = true
      ↔ coverageChecksum cfg f.msgid (f.header ++ f.payload) = some p.rxCk := by
    rw [frameAccepted_iff, coverageChecksum, Option.map_eq_some_iff, hmsgid, h.headerBytes_eq, h.payloadBytes_eq]
    rfl
  rw [HeldFrame.verdict, ← h.frameMessage_eq]
  simp only [finalize, haccepted]

theorem stepChecksumHigh_shows {lo : Byte} (h : p.HoldsWhole cfg f) (hck : p.rxCk = lo.setWidth 16) :
    (stepChecksumHigh cfg p b).1.Shows cfg (Progress.next cfg (.checksumHigh f lo) b).1
      ∧ (stepChecksumHigh cfg p b).2 = (Progress.next cfg (.checksumHigh f lo) b).2 := by
  have hck' : (withChecksumHigh p b).rxCk = b ++ lo := by
    rw [← or_shiftLeft_eq_append, ← hck]
    rfl
  have hwhole : (withChecksumHigh p b).HoldsWhole cfg f := h.update _ _ _
  have htrailer : p.v2 = true ∧ p.signed = true ↔ f.signed = true := by
    rw [h.signed, h.version, HeldFrame.signed]
    simp
  rw [Progress.next]
  by_cases hs : f.signed = true
  · rw [stepChecksumHigh_trailer (htrailer.mpr hs), if_pos hs]
    exact ⟨⟨rfl, h.update _ _ _, hck', rfl⟩, rfl⟩
  · rw [stepChecksumHigh_noTrailer (mt htrailer.mp hs), if_neg hs]
    exact ⟨⟨rfl, List.length_replicate⟩, by rw [finalize_of_holdsWhole hwhole, hck']⟩

theorem stepSignature_shows {ck : Checksum} {n : BitVec 4} (hp : p.phase = .signature) (h : p.HoldsWhole cfg f)
    (hck : p.rxCk = ck) (hn : p.sigCnt = n) :
    (stepSignature cfg p).1.Shows cfg (Progress.next cfg (.signature f ck n) b).1
      ∧ (stepSignature cfg p).2 = (Progress.next cfg (.signature f ck n) b).2 := by
  subst hck hn
  rw [Progress.next]
  by_cases hlast : p.sigCnt + 1 = 13
  · rw [stepSignature_last hlast, if_pos hlast]
    exact ⟨⟨rfl, List.length_replicate⟩, finalize_of_holdsWhole h⟩
  · rw [stepSignature_within hlast, if_neg hlast]
    exact ⟨⟨hp, h.update _ _ _, rfl, rfl⟩, rfl⟩

/-! ### The simulation -/

theorem stepWaitSync_shows (hp : p.phase = .waitSync) (hpay : p.pay.length = cfg.payloadCap.toNat) :
    (stepWaitSync p b).Shows cfg (Progress.next cfg .idle b).1 := by
  rw [stepWaitSync, Progress.next, syncV2, syncV1]
  by_cases h2 : b = 0xFD
  · rw [if_pos h2, if_pos h2]
    exact ⟨rfl, hpay, rfl, rfl, rfl, by decide, rfl⟩
  · rw [if_neg h2, if_neg h2]
    by_cases h1 : b = 0xFE
    · rw [if_pos h1, if_pos h1]
      exact ⟨rfl, hpay, rfl, rfl, rfl, by decide, rfl⟩
    · rw [if_neg h1, if_neg h1]
      exact ⟨hp, hpay⟩

/-- A parser that shows a progress takes its step and gives its message. -/
theorem Parser.Shows.parseStep {v : Progress} (h : p.Shows cfg v) :
    (Machine.parseStep cfg p b).1.Shows cfg (v.next cfg b).1 ∧ (Machine.parseStep cfg p b).2 = (v.next cfg b).2 := by
  obtain ⟨hp, h⟩ := h
  cases v with
  | idle =>
    rw [parseStep_waitSync hp]
    exact ⟨stepWaitSync_shows hp h, rfl⟩
  | header v2 hs =>
    obtain ⟨hpay, hheld⟩ := h
    rw [parseStep_header hp]
    exact ⟨stepHeader_shows hp hpay hheld, rfl⟩
  | payload f =>
    obtain ⟨hheld, hmore⟩ := h
    rw [parseStep_payload hp]
    exact ⟨stepPayload_shows hp hheld hmore, rfl⟩
  | checksumLow f =>
    rw [parseStep_checksumLow hp]
    exact ⟨⟨rfl, h.update _ _ _, rfl⟩, rfl⟩
  | checksumHigh f lo =>
    obtain ⟨hwhole, hck⟩ := h
    rw [parseStep_checksumHigh hp]
    exact stepChecksumHigh_shows hwhole hck
  | signature f ck n =>
    obtain ⟨hwhole, hck, hn⟩ := h
    rw [parseStep_signature hp]
    exact stepSignature_shows hp hwhole hck hn

theorem Parser.Shows.parseAll {v : Progress} (h : p.Shows cfg v) (bs : List Byte) :
    (Machine.parseAll cfg p bs).1.Shows cfg (v.run cfg bs).1 ∧ (Machine.parseAll cfg p bs).2 = (v.run cfg bs).2 := by
  induction bs generalizing p v with
  | nil => exact ⟨h, rfl⟩
  | cons b bs ih =>
    obtain ⟨hstep, hmessage⟩ := h.parseStep (b := b)
    obtain ⟨hrun, hmessages⟩ := ih hstep
    exact ⟨hrun, by rw [Machine.parseAll, Progress.run, hmessage, hmessages]⟩

/-- A parser comes back to WaitSync only by resynchronizing (41_parser.md R139). -/
theorem parseStep_returns (hp : p.phase ≠ .waitSync) (h : (parseStep cfg p b).1.phase = .waitSync) :
    (parseStep cfg p b).1 = resync cfg := by
  cases hphase : p.phase with
  | waitSync => exact absurd hphase hp
  | header =>
    rw [parseStep_header hphase] at h ⊢
    by_cases hlast : p.hdrIdx + 1 = p.hdrLen
    · rw [stepHeader_last hlast] at h ⊢
      by_cases hover : cfg.payloadCap < lenField (appendHeader p b)
      · exact completeHeader_oversize hover
      · rw [completeHeader_fits hover] at h
        dsimp only at h
        split at h <;> cases h
    · rw [stepHeader_within hlast] at h
      exact absurd h hp
  | payload =>
    rw [parseStep_payload hphase, stepPayload_eq hphase] at h
    dsimp only at h
    split at h <;> cases h
  | checksumLow =>
    rw [parseStep_checksumLow hphase] at h
    cases h
  | checksumHigh =>
    rw [parseStep_checksumHigh hphase] at h ⊢
    by_cases ht : p.v2 = true ∧ p.signed = true
    · rw [stepChecksumHigh_trailer ht] at h
      cases h
    · rw [stepChecksumHigh_noTrailer ht, finalize_parser]
  | signature =>
    rw [parseStep_signature hphase] at h ⊢
    by_cases hlast : p.sigCnt + 1 = 13
    · rw [stepSignature_last hlast, finalize_parser]
    · rw [stepSignature_within hlast] at h
      exact absurd h hp

/-- The run of a parser over the bytes of a frame, whose last byte ends it. -/
theorem Parser.Shows.parseAll_to_end {v u : Progress} {bs : List Byte} {ms : List (Option Message)} {m : Option Message}
    (h : p.Shows cfg v) (hrun : v.run cfg bs = (u, ms)) (hu : u.phase ≠ .waitSync) (hlast : u.next cfg b = (.idle, m)) :
    Machine.parseAll cfg p (bs ++ [b]) = (resync cfg, ms ++ [m]) := by
  obtain ⟨hshows, hmessages⟩ := h.parseAll bs
  rw [hrun] at hshows hmessages
  obtain ⟨hstep, hmessage⟩ := hshows.parseStep (b := b)
  rw [hlast] at hstep hmessage
  obtain ⟨hphase, -⟩ := hshows
  obtain ⟨hback, -⟩ := hstep
  have hreset := parseStep_returns (hphase ▸ hu) hback
  rw [parseAll_append, Machine.parseAll, Machine.parseAll, hmessages, hmessage, hreset]

end Simulation

end Sys2Proof.Machine
end

section
/-! PROOFS. What the host and the sink see does not depend on a parser field that the phase does not read (10_state.md section 4): runs
from states that differ only in such fields stay so. -/

namespace Sys2Proof.Machine

variable {i : Instr} {s t u : State}

/-- Another state with the same progress of its parser, and the same in everything but its parser. -/
def State.SameProgress (s u : State) : Prop :=
  ∃ v q, s.parser.Shows s.cfg v ∧ q.Shows s.cfg v ∧ u = s.withParser q

theorem deliver_withParser {rest : List Byte} (q : Parser) (h : deliver rest s = .next t) :
    deliver rest (s.withParser q) = .next (t.withParser q) := by
  obtain ⟨-, hacc, -, -⟩ := deliver_frame h
  have hkept : (t.withParser q).withCrcAcc s.crcAcc = t.withParser q := by
    rw [← hacc]
    rfl
  exact hkept ▸ deliver_withParser_withCrcAcc q s.crcAcc h

/-- A command that does not work on the parser does the same with any parser. -/
theorem exec_withParser (q : Parser) (h0 : opNumber i ≠ 0) (h1 : opNumber i ≠ 1) (h : exec i s = .next t) :
    exec i (s.withParser q) = .next (t.withParser q) := by
  cases i with
  | sendHb seq sysid compid => exact deliver_withParser q h
  | reset => exact absurd rfl h0
  | feed b => exact absurd rfl h1
  | crcSeed | crcLoad v | crcByte b | crcSalt id | lookup id =>
    obtain rfl := Host.Outcome.next.inj h
    rfl

theorem State.sameProgress_of_kept {q : Parser} {v : Progress} (hs : s.parser.Shows s.cfg v) (hq : q.Shows s.cfg v)
    (hparser : t.parser = s.parser) (hcfg : t.cfg = s.cfg) : t.SameProgress (t.withParser q) :=
  ⟨v, q, by rwa [hparser, hcfg], by rwa [hcfg], rfl⟩

/-- FEED takes both parsers on by the same step, and RESET resynchronizes both. -/
theorem exec_sameProgress (hsame : s.SameProgress u) (h : exec i s = .next t) :
    ∃ t', exec i u = .next t' ∧ t.SameProgress t' := by
  obtain ⟨v, q, hs, hq, rfl⟩ := hsame
  cases i with
  | reset =>
    obtain rfl := Host.Outcome.next.inj h
    exact ⟨_, exec_reset _, .idle, resync s.cfg, ⟨rfl, List.length_replicate⟩, ⟨rfl, List.length_replicate⟩, rfl⟩
  | feed b =>
    obtain rfl := Host.Outcome.next.inj h
    obtain ⟨hs', hsm⟩ := hs.parseStep (b := b)
    obtain ⟨hq', hqm⟩ := hq.parseStep (b := b)
    refine ⟨_, exec_feed b _, _, _, hs', hq', ?_⟩
    rw [feedNext, feedNext, State.withParser_cfg, State.withParser_parser, hsm, hqm]
    rfl
  | crcSeed | crcLoad w | crcByte b | crcSalt id | lookup id | sendHb seq sysid compid =>
    exact ⟨_, exec_withParser q (by simp [opNumber]) (by simp [opNumber]) h, State.sameProgress_of_kept hs hq
      (exec_keeps_parser (by simp [opNumber]) (by simp [opNumber]) h) (exec_keeps_cfg h)⟩

theorem step_sameProgress (hsame : s.SameProgress u) (h : step s = .next t) :
    ∃ t', step u = .next t' ∧ t.SameProgress t' := by
  have hsame' := hsame
  obtain ⟨v, q, hs, hq, rfl⟩ := hsame'
  obtain ⟨rest, hsending, hdeliver⟩ | ⟨hsending, hc, rfl⟩ | ⟨w, ws, i, hsending, hc, hd, hexec⟩
    | ⟨w, ws, e, hsending, hc, hd, rfl⟩ := step_next h
  · obtain ⟨hparser, -, hcfg, -⟩ := deliver_frame hdeliver
    refine ⟨_, ?_, State.sameProgress_of_kept hs hq hparser hcfg⟩
    rw [step_of_sending (s := s.withParser q) hsending]
    exact deliver_withParser q hdeliver
  · exact ⟨_, step_of_no_cmds hsending hc, hsame⟩
  · rw [step_of_decode_ok (s := s.withParser q) hsending hc hd]
    exact exec_sameProgress (s := s.withCmds ws) ⟨v, q, hs, hq, rfl⟩ hexec
  · exact ⟨_, step_of_decode_error (s := s.withParser q) hsending hc hd, v, q, hs, hq, rfl⟩

theorem runSteps_sameProgress (n : Nat) (hsame : s.SameProgress u) (h : runSteps n s = .next t) :
    ∃ t', runSteps n u = .next t' ∧ t.SameProgress t' := by
  induction n generalizing s u with
  | zero =>
    obtain rfl := Host.Outcome.next.inj h
    exact ⟨u, rfl, hsame⟩
  | succ n ih =>
    cases hstep : step s with
    | next s' =>
      obtain ⟨u', hu, hsame'⟩ := step_sameProgress hsame hstep
      simp only [runSteps, hstep] at h
      simp only [runSteps, hu]
      exact ih hsame' h
    | fault r => simp [runSteps, hstep] at h
    | refused r => simp [runSteps, hstep] at h

/-- What the host and the sink see, the accumulator and the phase are the same in both. -/
theorem State.SameProgress.visible (hsame : s.SameProgress u) : u.responses = s.responses ∧ u.sinkBytes = s.sinkBytes
    ∧ u.crcAcc = s.crcAcc ∧ u.cmds = s.cmds ∧ u.parser.phase = s.parser.phase := by
  obtain ⟨v, q, ⟨hs, -⟩, ⟨hq, -⟩, rfl⟩ := hsame
  exact ⟨rfl, rfl, rfl, rfl, hq.trans hs.symm⟩

end Sys2Proof.Machine
end

section
/-! PROOFS. The statement about the power-on values of the parser (10_state.md section 4, D9). -/

namespace Sys2Proof.Proofs

open Sys2Proof Sys2Proof.Machine

/-- Settles O40: two parsers in WaitSync with buffers of the capacity have the same progress, and every run keeps that. -/
theorem noResponseReadsAResetValue : Obligations.NoResponseReadsAResetValue := by
  unfold Obligations.NoResponseReadsAResetValue
  intro cfg p ws as n t hp hpay hrun
  have hsame : State.SameProgress { State.powerOn cfg with parser := p, cmds := ws, sinkAnswers := as }
      { State.powerOn cfg with cmds := ws, sinkAnswers := as } :=
    ⟨.idle, Parser.reset cfg.payloadCap, ⟨hp, hpay⟩, ⟨rfl, List.length_replicate⟩, rfl⟩
  obtain ⟨u, hu, hsame'⟩ := runSteps_sameProgress n hsame hrun
  exact ⟨u, hu, hsame'.visible⟩

end Sys2Proof.Proofs
end

section
/-! PROOFS. Whole frames (41_parser.md section 4): the progress over a frame's bytes, the run of a parser in WaitSync over a frame with
and without a trailer, and over an oversize header. -/

namespace Sys2Proof.Machine

variable {cfg : Config} {p : Parser}

/-- The sync byte of a version (00_scope.md R5). -/
def syncByte (v2 : Bool) : Byte := if v2 then 0xFD else 0xFE

namespace Progress

theorem run_append (cfg : Config) (v : Progress) (xs ys : List Byte) : v.run cfg (xs ++ ys) =
    (((v.run cfg xs).1.run cfg ys).1, (v.run cfg xs).2 ++ ((v.run cfg xs).1.run cfg ys).2) := by
  induction xs generalizing v with
  | nil => rfl
  | cons x xs ih => simp [run, ih]

/-- Bytes that do not go beyond the header are header bytes (41_parser.md R128). -/
theorem run_afterHeader {v2 : Bool} {hs bs : List Byte} (h : hs.length + bs.length ≤ headerLength v2) :
    (afterHeader cfg v2 hs).run cfg bs = (afterHeader cfg v2 (hs ++ bs), List.replicate bs.length none) := by
  induction bs generalizing hs with
  | nil => simp [run]
  | cons b bs ih =>
    rw [List.length_cons] at h
    have hmore : hs.length < headerLength v2 := by omega
    have hstart : afterHeader cfg v2 hs = .header v2 hs := by rw [afterHeader, if_pos hmore]
    have hrest := ih (hs := hs ++ [b]) (by rw [List.length_append, List.length_singleton]; omega)
    rw [hstart, run, next, hrest]
    simp [List.replicate_succ]

/-- Bytes that do not go beyond the declared length are payload bytes (41_parser.md R133). -/
theorem run_afterPayload {f : HeldFrame} {bs : List Byte} (h : f.payload.length + bs.length ≤ f.len.toNat) :
    (afterPayload f).run cfg bs = (afterPayload { f with payload := f.payload ++ bs }, List.replicate bs.length none) := by
  induction bs generalizing f with
  | nil => simp [run]
  | cons b bs ih =>
    rw [List.length_cons] at h
    have hmore : f.payload.length < f.len.toNat := by omega
    have hstart : afterPayload f = .payload f := by rw [afterPayload, if_pos hmore]
    have hlen : (f.push b).len = f.len := rfl
    have hlength : (f.push b).payload.length = f.payload.length + 1 := by simp [HeldFrame.push]
    have hrest := ih (f := f.push b) (by rw [hlen, hlength]; omega)
    rw [hstart, run, next, hrest]
    simp [HeldFrame.push, List.replicate_succ]

/-- Bytes before the last of the trailer are counted, whatever they are (41_parser.md R136). -/
theorem run_signature {f : HeldFrame} {ck : Checksum} {n : BitVec 4} {bs : List Byte} (h : n.toNat + bs.length < 13) :
    (signature f ck n).run cfg bs = (.signature f ck (n + BitVec.ofNat 4 bs.length), List.replicate bs.length none) := by
  induction bs generalizing n with
  | nil => simp [run]
  | cons b bs ih =>
    rw [List.length_cons] at h
    have hmore : n + 1 ≠ 13 := by bv_omega
    have hcount : (n + 1).toNat = n.toNat + 1 := by bv_omega
    have hsum : n + 1 + BitVec.ofNat 4 bs.length = n + BitVec.ofNat 4 (bs.length + 1) := by bv_omega
    rw [run, next, if_neg hmore, ih (by omega), hsum]
    simp [List.replicate_succ]

/-- The frame up to its checksum, whose header is whole and declares the payload there is. -/
theorem run_frame {f : HeldFrame} (hheader : f.header.length = headerLength f.v2) (hpayload : f.payload.length = f.len.toNat)
    (hfits : f.payload.length ≤ cfg.payloadCap.toNat) :
    Progress.idle.run cfg (syncByte f.v2 :: (f.header ++ f.payload))
      = (.checksumLow f, List.replicate (1 + f.header.length + f.payload.length) none) := by
  have hsync : Progress.idle.next cfg (syncByte f.v2) = (afterHeader cfg f.v2 [], none) := by
    cases f.v2 <;> rfl
  have hafter : afterHeader cfg f.v2 f.header = afterPayload ⟨f.v2, f.header, []⟩ := by
    rw [afterHeader, if_neg hheader.not_lt, if_neg]
    exact hpayload ▸ hfits.not_gt
  have hheaderRun := run_afterHeader (cfg := cfg) (v2 := f.v2) (hs := []) (bs := f.header) (by simp [hheader])
  have hpayloadRun := run_afterPayload (cfg := cfg) (f := ⟨f.v2, f.header, []⟩) (bs := f.payload)
    ((Nat.zero_add _).trans_le hpayload.le)
  rw [run, hsync, run_append, hheaderRun, List.nil_append, hafter, hpayloadRun, List.nil_append, afterPayload,
    if_neg hpayload.not_lt, List.replicate_append_replicate, Nat.add_assoc, Nat.add_comm 1]
  rfl

end Progress

/-! ### Runs from WaitSync -/

section Frames

variable {f : HeldFrame} {hi lo : Byte}

/-- A frame without a trailer: no message before its last byte, and then the verdict (41_parser.md R135). -/
theorem parseAll_unsigned_frame (hp : p.phase = .waitSync) (hpay : p.pay.length = cfg.payloadCap.toNat)
    (hheader : f.header.length = headerLength f.v2) (hpayload : f.payload.length = f.len.toNat)
    (hfits : f.payload.length ≤ cfg.payloadCap.toNat) (hunsigned : f.signed = false) :
    parseAll cfg p (syncByte f.v2 :: (f.header ++ f.payload) ++ [lo, hi]) = (resync cfg,
      List.replicate (2 + f.header.length + f.payload.length) none ++ [f.verdict cfg (hi ++ lo)]) := by
  have hidle : p.Shows cfg .idle := ⟨hp, hpay⟩
  have hrun : Progress.idle.run cfg (syncByte f.v2 :: (f.header ++ f.payload) ++ [lo])
      = (.checksumHigh f lo, List.replicate (1 + f.header.length + f.payload.length + 1) none) := by
    rw [Progress.run_append, Progress.run_frame hheader hpayload hfits, List.replicate_succ']
    rfl
  have hlast : Progress.next cfg (.checksumHigh f lo) hi = (.idle, f.verdict cfg (hi ++ lo)) := by
    simp [Progress.next, hunsigned]
  have hbytes : syncByte f.v2 :: (f.header ++ f.payload) ++ [lo, hi]
      = syncByte f.v2 :: (f.header ++ f.payload) ++ [lo] ++ [hi] := by simp
  have hcount : 2 + f.header.length + f.payload.length = 1 + f.header.length + f.payload.length + 1 := by omega
  rw [hbytes, hcount]
  exact hidle.parseAll_to_end hrun nofun hlast

/-- A frame with a trailer: no message before the trailer's last byte, and then the verdict (41_parser.md R136). -/
theorem parseAll_signed_frame {trailer : List Byte} (hp : p.phase = .waitSync) (hpay : p.pay.length = cfg.payloadCap.toNat)
    (hheader : f.header.length = headerLength f.v2) (hpayload : f.payload.length = f.len.toNat)
    (hfits : f.payload.length ≤ cfg.payloadCap.toNat) (hsigned : f.signed = true) (htrailer : trailer.length = 13) :
    parseAll cfg p (syncByte f.v2 :: (f.header ++ f.payload) ++ [lo, hi] ++ trailer) = (resync cfg,
      List.replicate (15 + f.header.length + f.payload.length) none ++ [f.verdict cfg (hi ++ lo)]) := by
  obtain ⟨counted, b, rfl⟩ := List.eq_nil_or_concat trailer |>.resolve_left (by rintro rfl; cases htrailer)
  rw [List.concat_eq_append, List.length_append, List.length_singleton] at htrailer
  have hcounted : counted.length = 12 := by omega
  have hidle : p.Shows cfg .idle := ⟨hp, hpay⟩
  have hchecksum : Progress.run cfg (.checksumLow f) [lo, hi] = (.signature f (hi ++ lo) 0, List.replicate 2 none) := by
    simp [Progress.run, Progress.next, hsigned]
  have hcountRun : Progress.run cfg (.signature f (hi ++ lo) 0) counted = (.signature f (hi ++ lo) 12, List.replicate 12 none) := by
    rw [Progress.run_signature (by rw [hcounted]; decide), hcounted]
    rfl
  have hrun : Progress.idle.run cfg (syncByte f.v2 :: (f.header ++ f.payload) ++ [lo, hi] ++ counted)
      = (.signature f (hi ++ lo) 12, List.replicate (1 + f.header.length + f.payload.length + 2 + 12) none) := by
    rw [Progress.run_append, Progress.run_append, Progress.run_frame hheader hpayload hfits, hchecksum, hcountRun]
    simp only [List.replicate_append_replicate]
  have hbytes : syncByte f.v2 :: (f.header ++ f.payload) ++ [lo, hi] ++ counted.concat b
      = syncByte f.v2 :: (f.header ++ f.payload) ++ [lo, hi] ++ counted ++ [b] := by simp
  have hcount : 15 + f.header.length + f.payload.length = 1 + f.header.length + f.payload.length + 2 + 12 := by omega
  rw [hbytes, hcount]
  exact hidle.parseAll_to_end hrun nofun rfl

/-- The rest of a header whose length byte is above the capacity, sync values included, gives no message (41_parser.md R129). -/
theorem parseAll_oversize_header {v2 : Bool} {hs : List Byte} (bs : List Byte) (hp : p.phase = .header)
    (h : p.HoldsHeader v2 hs) (hfull : (hs ++ bs).length = headerLength v2)
    (hover : cfg.payloadCap.toNat < ((hs ++ bs).getD 0 0).toNat) :
    parseAll cfg p bs = (resync cfg, List.replicate bs.length none) := by
  induction bs generalizing p hs with
  | nil =>
    rw [List.append_nil] at hfull
    exact absurd hfull h.within.ne
  | cons b bs ih =>
    rw [List.append_cons] at hfull hover
    by_cases hlast : (hs ++ [b]).length = headerLength v2
    · have hnil : bs = [] := by
        rw [List.length_append, hlast] at hfull
        exact List.length_eq_zero_iff.mp (by omega)
      subst hnil
      rw [List.append_nil, ← lenField_eq_getD (hlast ▸ appendHeader_take h)] at hover
      have hstep : parseStep cfg p b = (resync cfg, none) := by
        rw [parseStep_header hp, stepHeader_last ((h.last_iff b).mpr hlast), completeHeader_oversize hover]
      rw [parseAll, parseAll, hstep]
      rfl
    · have hstep : parseStep cfg p b = (appendHeader p b, none) := by
        rw [parseStep_header hp, stepHeader_within (mt (h.last_iff b).mp hlast)]
      have hrest := ih (p := appendHeader p b) hp (appendHeader_holds h (h.more_of_not_full hlast)) hfull hover
      rw [parseAll, hstep, hrest]
      rfl

theorem stepWaitSync_syncByte (v2 : Bool) : (stepWaitSync p (syncByte v2)).phase = .header
    ∧ (stepWaitSync p (syncByte v2)).HoldsHeader v2 [] := by
  cases v2
  · exact ⟨rfl, rfl, rfl, rfl, by decide, rfl⟩
  · exact ⟨rfl, rfl, rfl, rfl, by decide, rfl⟩

/-- An oversize frame ends with its header (41_parser.md R129). -/
theorem parseAll_oversize_frame (v2 : Bool) {bs : List Byte} (hp : p.phase = .waitSync) (hfull : bs.length = headerLength v2)
    (hover : cfg.payloadCap.toNat < (bs.getD 0 0).toNat) :
    parseAll cfg p (syncByte v2 :: bs) = (resync cfg, List.replicate (bs.length + 1) none) := by
  obtain ⟨hphase, hheld⟩ := stepWaitSync_syncByte (p := p) v2
  rw [parseAll, parseStep_waitSync hp, parseAll_oversize_header bs hphase hheld hfull hover]
  rfl

end Frames

/-! ### The frames of 30_encoding.md R80 and R81 -/

/-- The v1 frame with these fields, up to its checksum (30_encoding.md R80). -/
def v1Frame (seq sysid compid msgid : Byte) (payload : List Byte) : HeldFrame where
  v2 := false
  header := [BitVec.ofNat 8 payload.length, seq, sysid, compid, msgid]
  payload := payload

/-- The v2 frame with these fields, up to its checksum (30_encoding.md R81). -/
def v2Frame (incompat compat seq sysid compid : Byte) (msgid : MsgId) (payload : List Byte) : HeldFrame where
  v2 := true
  header := [BitVec.ofNat 8 payload.length, incompat, compat, seq, sysid, compid,
    msgid.extractLsb' 0 8, msgid.extractLsb' 8 8, msgid.extractLsb' 16 8]
  payload := payload

theorem checksumField_append (ck : Checksum) : (ck.extractLsb' 8 8 ++ ck.extractLsb' 0 8 : Checksum) = ck :=
  BitVec.extractLsb'_append_extractLsb'

theorem msgidBytes_append (msgid : MsgId) :
    (msgid.extractLsb' 16 8 ++ (msgid.extractLsb' 8 8 ++ msgid.extractLsb' 0 8) : MsgId) = msgid := by
  apply BitVec.eq_of_toNat_eq
  have hlt := msgid.isLt
  simp only [threeBytes_toNat, BitVec.extractLsb'_toNat, Nat.shiftRight_eq_div_pow]
  omega

theorem toNat_ofNat_length {payload : List Byte} (h : payload.length ≤ cfg.payloadCap.toNat) :
    payload.length = (BitVec.ofNat 8 payload.length).toNat := by
  have hcap := cfg.payloadCap.isLt
  rw [BitVec.toNat_ofNat, Nat.mod_eq_of_lt (by omega)]

theorem v2Frame_verdict (incompat compat seq sysid compid : Byte) (msgid : MsgId) (payload : List Byte) (ck : Checksum) :
    (v2Frame incompat compat seq sysid compid msgid payload).verdict cfg ck
      = if coverageChecksum cfg msgid (v2Covered incompat compat seq sysid compid msgid payload) = some ck
        then some ⟨msgid, sysid, compid, BitVec.ofNat 8 payload.length, payload⟩ else none := by
  have hmsgid : (v2Frame incompat compat seq sysid compid msgid payload).msgid = msgid := msgidBytes_append msgid
  rw [HeldFrame.verdict, HeldFrame.message, hmsgid]
  rfl

/-- FEEDs whose bytes give no message before the last and leave the parser at its reset values. -/
theorem runCommands_feeds_of_parseAll {bs : List Byte} {s : State} {n : Nat} {m : Option Message}
    (h : parseAll s.cfg s.parser bs = (resync s.cfg, List.replicate n none ++ [m])) :
    runCommands (bs.map .feed) s = .next { s with
      parser := Parser.reset s.cfg.payloadCap
      responses := s.responses ++ List.replicate n (feedResponse none) ++ [feedResponse m] } := by
  rw [runCommands_feeds, feedAll, h, List.map_append, List.map_replicate, List.append_assoc]
  rfl

/-! ### The heartbeat as a frame (43_encoder.md R191, R192) -/

theorem hbFrame_eq_v2Covered (cfg : Config) (seq sysid compid : Byte) : hbFrame cfg seq sysid compid =
    [0xFD] ++ v2Covered 0 0 seq sysid compid cfg.hbMsgid cfg.hbPayload.toList
      ++ checksumField (hbChecksum cfg seq sysid compid) := rfl

theorem coverageChecksum_heartbeat (cfg : Config) (seq sysid compid : Byte) :
    coverageChecksum cfg cfg.hbMsgid (v2Covered 0 0 seq sysid compid cfg.hbMsgid cfg.hbPayload.toList)
      = some (hbChecksum cfg seq sysid compid) := by
  obtain ⟨salt, hsalt⟩ := Option.isSome_iff_exists.mp cfg.hbRegistered
  rw [coverageChecksum, hsalt, hbChecksum, hbSalt_of_lookup hsalt, Option.map_some, List.foldl_append]
  rfl

end Sys2Proof.Machine
end

section
/-! PROOFS. The statements about whole frames and about a heartbeat fed back (41_parser.md section 4, 43_encoder.md section 3). -/

namespace Sys2Proof.Proofs

open Sys2Proof Sys2Proof.Machine

/-- Settles O41: the run over the frame's bytes, whose verdict is in the statement's own terms. -/
theorem v1FrameYieldsItsVerdict : Obligations.V1FrameYieldsItsVerdict := by
  unfold Obligations.V1FrameYieldsItsVerdict
  intro s seq sysid compid msgid payload ck hp hpay hfits
  have hrun := parseAll_unsigned_frame (f := v1Frame seq sysid compid msgid payload) (lo := ck.extractLsb' 0 8)
    (hi := ck.extractLsb' 8 8) hp hpay rfl (toNat_ofNat_length hfits) hfits rfl
  rw [checksumField_append] at hrun
  exact runCommands_feeds_of_parseAll hrun

/-- Settles O42: as O41, with the flag read from bit 0 of incompat alone. -/
theorem unsignedV2FrameYieldsItsVerdict : Obligations.UnsignedV2FrameYieldsItsVerdict := by
  unfold Obligations.UnsignedV2FrameYieldsItsVerdict
  intro s incompat compat seq sysid compid msgid payload ck hp hpay hfits hunsigned
  have hrun := parseAll_unsigned_frame (f := v2Frame incompat compat seq sysid compid msgid payload)
    (lo := ck.extractLsb' 0 8) (hi := ck.extractLsb' 8 8) hp hpay rfl (toNat_ofNat_length hfits) hfits hunsigned
  rw [checksumField_append, v2Frame_verdict] at hrun
  exact runCommands_feeds_of_parseAll hrun

/-- Settles O43: as O42, with the verdict put off to the end of the trailer. -/
theorem signedV2FrameSkipsItsTrailer : Obligations.SignedV2FrameSkipsItsTrailer := by
  unfold Obligations.SignedV2FrameSkipsItsTrailer
  intro s incompat compat seq sysid compid msgid payload ck trailer hp hpay hfits hsigned htrailer
  have hrun := parseAll_signed_frame (f := v2Frame incompat compat seq sysid compid msgid payload)
    (lo := ck.extractLsb' 0 8) (hi := ck.extractLsb' 8 8) hp hpay rfl (toNat_ofNat_length hfits) hfits hsigned htrailer
  rw [checksumField_append, v2Frame_verdict] at hrun
  exact runCommands_feeds_of_parseAll hrun

/-- Settles O44: the length byte is the first of the header, and the header is consumed before it is looked at. -/
theorem oversizeFrameConsumesItsWholeHeader : Obligations.OversizeFrameConsumesItsWholeHeader := by
  unfold Obligations.OversizeFrameConsumesItsWholeHeader
  intro s len more hp hover
  have hrun : ∀ v2, (len :: more).length = headerLength v2 →
      runCommands ((syncByte v2 :: len :: more).map .feed) s = .next { s with
        parser := Parser.reset s.cfg.payloadCap
        responses := s.responses ++ List.replicate (headerLength v2 + 1) (feedResponse none) } := by
    intro v2 hfull
    rw [runCommands_feeds, feedAll, parseAll_oversize_frame v2 hp hfull hover, hfull, List.map_replicate]
    rfl
  exact ⟨fun h4 => hrun false (congrArg (· + 1) h4), fun h8 => hrun true (congrArg (· + 1) h8)⟩

/-- Settles O52: the heartbeat is an unsigned v2 frame with its own checksum, so O42 gives its verdict. -/
theorem heartbeatParsesBack : Obligations.HeartbeatParsesBack := by
  unfold Obligations.HeartbeatParsesBack
  intro s seq sysid compid hp hpay hcap
  have hlength : s.cfg.hbPayload.toList.length = 9 := Vector.length_toList
  have hrun := unsignedV2FrameYieldsItsVerdict s 0 0 seq sysid compid s.cfg.hbMsgid s.cfg.hbPayload.toList
    (hbChecksum s.cfg seq sysid compid) hp hpay (hlength.trans_le hcap) rfl
  rwa [← hbFrame_eq_v2Covered, if_pos (coverageChecksum_heartbeat ..), hlength] at hrun

end Sys2Proof.Proofs
end
